-- ==== Sys2Proof/Word.lean ====
section
/-! DEFINITION. The machine word and the arithmetic laws of 00_scope.md rule R8. -/

namespace Sys2Proof

/-- A word: the width `W` of R5 and R7, 64 bits. -/
abbrev Word := BitVec 64

/-- One byte of the byte view of R56; read by no rule of the machine, used only to lay out encodings. -/
abbrev Byte := BitVec 8

/-- R8: addition modulo 2^64. -/
abbrev add64 (a b : Word) : Word := a + b

/-- R8: subtraction modulo 2^64. -/
abbrev sub64 (a b : Word) : Word := a - b

/-- R8: the low 64 bits of the product. -/
abbrev mul64 (a b : Word) : Word := a * b

/-- R8: left shift; bits shifted out at the top are lost. -/
abbrev shl64 (a : Word) (n : Nat) : Word := a <<< n

/-- R8: logical right shift; zeros enter at bit 63. -/
abbrev shr64 (a : Word) (n : Nat) : Word := a >>> n

/-- R8: bitwise exclusive or. -/
abbrev xor64 (a b : Word) : Word := a ^^^ b

end Sys2Proof
end

