-- ==== Sys2Proof/Config.lean ====
section
/-! DEFINITION. The parameters of the core (00_scope.md R5) and the constants derived from them (R6). Every one
is fixed by the spec; there is no free value and nothing is left to an implementation. -/

namespace Sys2Proof.Config

/-- R5: the round constant of Variant A. -/
def deltaA : Word := 0x9E3779B97F4A7C15#64

/-- R5: the round constant of Variant B. -/
def deltaB : Word := 0x0FD258F8F3210C68#64

/-- R5: Variant A's left shift amount. -/
def shlA : Nat := 14

/-- R5: Variant A's right shift amount. -/
def shrA : Nat := 15

/-- R5: Variant B's left shift amount. -/
def shlB : Nat := 4

/-- R5: Variant B's right shift amount. -/
def shrB : Nat := 5

/-- R5: low end of the key-select bits of the `V0` half-round, `SUM[1:0]`, in both variants. -/
def selV0 : Nat := 0

/-- R5: low end of the key-select bits of Variant A's `V1` half-round, `SUM[24:23]`. -/
def selV1A : Nat := 23

/-- R5: low end of the key-select bits of Variant B's `V1` half-round, `SUM[12:11]`. -/
def selV1B : Nat := 11

/-- R5: the double-round count of Variant A, as the 7-bit value loaded into `CNT` (R26). -/
def roundsA : BitVec 7 := 64#7

/-- R6: `SUM64_A = mul64(DELTA_A, 64)`. -/
def sum64A : Word := mul64 deltaA 64#64

/-- R6: `SUM64_B = mul64(DELTA_B, 64)`. -/
def sum64B : Word := mul64 deltaB 64#64

/-- R6: `PERIOD_B`, the smallest `p > 0` with `mul64(DELTA_B, p) = 0`. -/
def periodB : Nat := 2 ^ 61

end Sys2Proof.Config
end

