-- ==== Sys2Proof/Machine/State.lean ====
section
/-! DEFINITION. The state of the machine: the eleven elements of one core (10_state.md R20), the host's side of the
port, the events a run consists of, and why a step can stop. -/

namespace Sys2Proof.Machine

/-- `KEY`, 256 bits, as its four views `K[0]` to `K[3]` (R21; log entry 13). -/
structure Key where
  k0 : Word
  k1 : Word
  k2 : Word
  k3 : Word
  deriving DecidableEq, Repr

/-- `BLOCK`, 128 bits, as its left half `V0` and right half `V1` (R22; log entry 13). -/
structure Block where
  v0 : Word
  v1 : Word
  deriving DecidableEq, Repr

/-- The complete state of one core: the eleven elements of R20, 592 bits. -/
structure CoreState where
  /-- `KEY` (R21). -/
  key : Key
  /-- `BLOCK` (R22). -/
  block : Block
  /-- `ROUNDS`, the iteration count (R23). -/
  rounds : Word
  /-- `SUM`, the round accumulator (R24). -/
  sum : Word
  /-- `LIMIT`, the termination target of Variant B (R25). -/
  limit : Word
  /-- `CNT`, the iteration counter of Variant A (R26). -/
  cnt : BitVec 7
  /-- `DIR`: false forward, true inverse (R27). -/
  dir : Bool
  /-- `OPR`, the opcode of the latest accepted cipher command (R28). -/
  opr : BitVec 4
  /-- `BUSY` (R29). -/
  busy : Bool
  /-- `DONE` (R30). -/
  done : Bool
  /-- `ERR`, the code of the first interface error (R31). -/
  err : BitVec 2
  deriving DecidableEq, Repr

/-- The input pins of the port, as one rising edge of `clk` samples them (R51). -/
structure Pins where
  rst : Bool
  sel : Bool
  we : Bool
  idx : BitVec 4
  wdata : Word
  deriving DecidableEq, Repr

/-- One thing that can happen to the core. A run is a list of these in one total order (R62; log entry 1). -/
inductive Event where
  /-- A host transaction, as the 69-bit word on the port (R52, R81). -/
  | host (bus : BitVec 69)
  /-- The engine's turn (R62, R163). -/
  | engine
  /-- The reset event of the untimed model (R190). -/
  | reset
  /-- One rising clock edge of the clocked refinement (R67). -/
  | clock (pins : Pins)
  /-- The pseudo-instruction `WAIT` in the untimed model: `RD STATUS` until the word read has bit 0 equal to 0 (R90). The
  list says how many engine turns fall after each poll that reads `BUSY = 1`, first such poll first; the interleaving, a
  parameter of the run (R62; log entry 17). -/
  | wait (gaps : List Nat)
  /-- `WAIT` in the clocked refinement, each poll one cycle (R67, R90). The list says how many cycles without a transaction
  follow each poll that reads `BUSY = 1` (log entry 17). -/
  | waitCycles (gaps : List Nat)
  deriving DecidableEq, Repr

/-- The machine: the core, and the two ends of its port. -/
structure State where
  /-- The eleven state elements (R20). -/
  core : CoreState
  /-- The model's own: the events still to happen, next first. The spec calls them parameters of a run, not state of
  the core (R38; DESIGN CHOICE, log entries 1 and 8). -/
  script : List Event
  /-- The model's own: the words that read transactions have returned to the host, newest first (R52; DESIGN CHOICE,
  log entry 2). -/
  reads : List Word
  deriving DecidableEq, Repr

/-- Why the machine stops. -/
inductive Fault where
  /-- Raised by the engine's step alone, when `BUSY = 1` and `OPR` is not 1 to 5. R163 gives that state no step and
  says that it cannot occur; no run from reset reaches it. Safe: the model stops (DESIGN CHOICE, log entry 5). -/
  | noOperation
  deriving DecidableEq, Repr

/-- Why the machine has no meaning for an instruction. -/
inductive Refusal where
  /-- Raised by an arm of `exec` that has no meaning yet, with the instruction's mnemonic. Safe: the model stops. No
  arm raises it. -/
  | notModelled (mnemonic : String)
  deriving DecidableEq, Repr

/-- The outcome of an instruction or a step. -/
abbrev Result := Host.Outcome State Fault Refusal

/-- R190: every one of the 592 bits is 0. -/
def CoreState.reset : CoreState where
  key := { k0 := 0#64, k1 := 0#64, k2 := 0#64, k3 := 0#64 }
  block := { v0 := 0#64, v1 := 0#64 }
  rounds := 0#64
  sum := 0#64
  limit := 0#64
  cnt := 0#7
  dir := false
  opr := 0#4
  busy := false
  done := false
  err := 0#2

/-- The machine right after reset: the core of R190, nothing scripted, nothing read yet. -/
def State.reset : State where
  core := CoreState.reset
  script := []
  reads := []

end Sys2Proof.Machine
end

