-- ==== Sys2Proof/Machine/Flags.lean ====
section
/-! DEFINITION. The flags as the host sees them (R29 to R33, R177) and the error codes (R171). The cipher has no
condition codes (R8, R31). -/

namespace Sys2Proof.Machine

/-- R171: `ILLEGAL_CMD`. -/
def errIllegalCmd : BitVec 2 := 1#2

/-- R171: `CMD_WHILE_BUSY`. -/
def errCmdWhileBusy : BitVec 2 := 2#2

/-- R171: `DATA_WHILE_BUSY`. -/
def errDataWhileBusy : BitVec 2 := 3#2

/-- R32: `zext_64(ERR ‖ DONE ‖ BUSY)`. -/
def statusWord (c : CoreState) : Word :=
  (c.err ++ BitVec.ofBool c.done ++ BitVec.ofBool c.busy : BitVec 4).setWidth 64

/-- R32, R90: bit 0 of a word read from `STATUS`, which is `BUSY`. -/
def readsBusy (status : Word) : Bool := status.getLsbD 0

/-- R33: `zext_64(OPR)`. -/
def commandWord (c : CoreState) : Word := c.opr.setWidth 64

/-- R51, R177: the `busy` output. -/
def busyOut (c : CoreState) : Bool := c.busy

/-- R51, R177: the `done` output. -/
def doneOut (c : CoreState) : Bool := c.done

/-- R163: `OPR` names a Variant A command. -/
def isVariantA (opr : BitVec 4) : Bool := opr == 1#4 || opr == 2#4

/-- R163: `OPR` names a Variant B command. -/
def isVariantB (opr : BitVec 4) : Bool := opr == 3#4 || opr == 4#4 || opr == 5#4

end Sys2Proof.Machine
end

