-- ==== Sys2Proof/Machine/Operands.lean ====
section
/-! DEFINITION. What is read out of the state as an operand: the wide registers and their views (R21, R22), the key
words the engine selects (R59, R101, R121), and the signed reading of the count (R9). -/

namespace Sys2Proof.Machine

/-- R21: `KEY = K[3] ‖ K[2] ‖ K[1] ‖ K[0]`. -/
def Key.bits (k : Key) : BitVec 256 := k.k3 ++ k.k2 ++ k.k1 ++ k.k0

/-- R22: `BLOCK = V1 ‖ V0`. -/
def Block.bits (b : Block) : BitVec 128 := b.v1 ++ b.v0

/-- R59: the key word file, `K[sel]`. -/
def Key.word (k : Key) (sel : BitVec 2) : Word :=
  match sel with
  | 0#2 => k.k0
  | 1#2 => k.k1
  | 2#2 => k.k2
  | _ => k.k3

/-- R7: the two-bit slice `v[lo+1:lo]`. -/
def slice2 (v : Word) (lo : Nat) : BitVec 2 := v.extractLsb' lo 2

/-- R59: the key word of the half-round that updates `V0`, `K[SUM[1:0]]`, in both variants. -/
def keyV0 (k : Key) (sum : Word) : Word := k.word (slice2 sum Config.selV0)

/-- R101: the key word of Variant A's half-round that updates `V1`, `K[SUM[24:23]]`. -/
def keyV1A (k : Key) (sum : Word) : Word := k.word (slice2 sum Config.selV1A)

/-- R121: the key word of Variant B's half-round that updates `V1`, `K[SUM[12:11]]`. -/
def keyV1B (k : Key) (sum : Word) : Word := k.word (slice2 sum Config.selV1B)

/-- R9: the only signed reading, of `ROUNDS`. -/
def sint64 (r : Word) : Int := if r.msb then (r.toNat : Int) - 2 ^ 64 else (r.toNat : Int)

/-- R9: the magnitude of a negative count, `sub64(0, r)`. -/
def neg64 (r : Word) : Word := sub64 0#64 r

/-- R129: the magnitude used at the accept of `XFRM_B`. -/
def magnitude (r : Word) : Word := if r.msb then neg64 r else r

/-- R129: the effective count `N_eff`, the number of round steps `XFRM_B` performs. -/
def effectiveCount (r : Word) : Nat := (magnitude r).toNat % Config.periodB

end Sys2Proof.Machine
end

