-- ==== Sys2Proof/Machine/Ops.lean ====
section
/-! DEFINITION. The shared operations over the registers: recording an interface error and its acknowledgement (the
core's whole exception mechanism, R171 to R175), the busy rules of writes, accept and completion of a command, and the
register map's read side. -/

namespace Sys2Proof.Machine

/-- R172: `record_err(c)`. The first error wins; nothing else changes, no control is transferred, nothing is saved
(R174). This is all that taking an exception is on this hardware. -/
def recordErr (code : BitVec 2) (c : CoreState) : CoreState :=
  if c.err = 0#2 then { c with err := code } else c

/-- R155, R175: the host's acknowledgement, the counterpart of a return from exception: `DONE <- 0`, `ERR <- 0`. -/
def acknowledge (c : CoreState) : CoreState := { c with done := false, err := 0#2 }

/-- R151 to R153: an operand write takes effect while idle; while busy it is dropped with error 3. -/
def storeData (store : CoreState → CoreState) (c : CoreState) : CoreState :=
  if c.busy then recordErr errDataWhileBusy c else store c

/-- R154, R173: a command word presented while busy is dropped with error 2 and not decoded. -/
def presentCommand (start : CoreState → CoreState) (c : CoreState) : CoreState :=
  if c.busy then recordErr errCmdWhileBusy c else start c

/-- R154: the accept of a cipher command with its opcode and the start values of `DIR`, `SUM`, `LIMIT`, `CNT`. -/
def accept (opr : BitVec 4) (dir : Bool) (sum limit : Word) (cnt : BitVec 7) (c : CoreState) : CoreState :=
  { c with opr := opr, dir := dir, sum := sum, limit := limit, cnt := cnt, busy := true, done := false }

/-- R163: the completion step, the same for both variants. -/
def complete (c : CoreState) : CoreState :=
  { c with busy := false, done := true, sum := 0#64, limit := 0#64, cnt := 0#7, dir := false }

/-- R53: `RegRead(idx)`, the read side of the register map (R157 to R162). -/
def regRead (c : CoreState) (idx : BitVec 4) : Word :=
  match idx with
  | 0#4 => c.key.k0
  | 1#4 => c.key.k1
  | 2#4 => c.key.k2
  | 3#4 => c.key.k3
  | 4#4 => c.block.v0
  | 5#4 => c.block.v1
  | 6#4 => c.rounds
  | 7#4 => commandWord c
  | 8#4 => statusWord c
  | _ => 0#64

/-- The machine with its core updated: what a write transaction does (R52). -/
def State.withCore (s : State) (c : CoreState) : State := { s with core := c }

/-- The machine after a read transaction has returned a word (R52, R58): the core is as it was. -/
def State.returnWord (s : State) (w : Word) : State := { s with reads := w :: s.reads }

/-- The machine with events put before the rest of the run: what a `WAIT` that has to go on does (R90). -/
def State.before (s : State) (es : List Event) : State := { s with script := es ++ s.script }

/-- R190: the reset event: the core takes its reset value, what the host still plans and has read stays (log
entry 9). -/
def State.resetCore (s : State) : State := { s with core := CoreState.reset }

end Sys2Proof.Machine
end

