-- ==== Sys2Proof/Machine/VariantA.lean ====
section
/-! DEFINITION. Variant A (40_variant_a.md): the round function, the two double-rounds, the commands `ENC_A` and
`DEC_A`, and the end-to-end functions. -/

namespace Sys2Proof.Machine

/-- What a double-round reads and writes besides the key: `V0`, `V1`, `SUM` (R102, R122). -/
structure Rnd where
  v0 : Word
  v1 : Word
  sum : Word
  deriving DecidableEq, Repr

/-- The half of the state a double-round works on. -/
def CoreState.rnd (c : CoreState) : Rnd := { v0 := c.block.v0, v1 := c.block.v1, sum := c.sum }

/-- A double-round's result written back (R163: a round step changes only `V0`, `V1`, `SUM`, and `CNT` in Variant A). -/
def CoreState.withRnd (c : CoreState) (r : Rnd) : CoreState :=
  { c with block := { v0 := r.v0, v1 := r.v1 }, sum := r.sum }

/-- The block of a double-round's result. -/
def Rnd.block (r : Rnd) : Block := { v0 := r.v0, v1 := r.v1 }

/-- R100: the mixing function `FA`. -/
def mixA (x : Word) : Word := add64 (xor64 (shl64 x Config.shlA) (shr64 x Config.shrA)) x

/-- R102: a half-round's term, the mixed half exclusive-or'ed with sum plus key word. -/
def termA (x sum kw : Word) : Word := xor64 (mixA x) (add64 sum kw)

/-- R102: the forward double-round `FwdA`. -/
def fwdA (k : Key) (r : Rnd) : Rnd :=
  let v0 := add64 r.v0 (termA r.v1 r.sum (keyV0 k r.sum))
  let sum := add64 r.sum Config.deltaA
  let v1 := add64 r.v1 (termA v0 sum (keyV1A k sum))
  { v0 := v0, v1 := v1, sum := sum }

/-- R103: the inverse double-round `InvA`. -/
def invA (k : Key) (r : Rnd) : Rnd :=
  let v1 := sub64 r.v1 (termA r.v0 r.sum (keyV1A k r.sum))
  let sum := sub64 r.sum Config.deltaA
  let v0 := sub64 r.v0 (termA v1 sum (keyV0 k sum))
  { v0 := v0, v1 := v1, sum := sum }

/-- R106: a Variant A round step. -/
def roundA (c : CoreState) : CoreState :=
  { c.withRnd (if c.dir then invA c.key c.rnd else fwdA c.key c.rnd) with cnt := c.cnt - 1#7 }

/-- R106: an engine step of a Variant A command; the counter is tested before the round. -/
def stepA (c : CoreState) : CoreState := if c.cnt = 0#7 then complete c else roundA c

/-- R104: the start values of `ENC_A`. -/
def startEncA (c : CoreState) : CoreState := accept 1#4 false 0#64 0#64 Config.roundsA c

/-- R105: the start values of `DEC_A`. -/
def startDecA (c : CoreState) : CoreState := accept 2#4 true Config.sum64A 0#64 Config.roundsA c

/-- R104: `ENC_A`. -/
def execEncA (s : State) : Result := .next (s.withCore (presentCommand startEncA s.core))

/-- R105: `DEC_A`. -/
def execDecA (s : State) : Result := .next (s.withCore (presentCommand startDecA s.core))

/-- R107: `EncA(K, B)`. -/
def encryptA (k : Key) (b : Block) : Block :=
  (Nat.iterate (fwdA k) 64 { v0 := b.v0, v1 := b.v1, sum := 0#64 }).block

/-- R107: `DecA(K, B)`. -/
def decryptA (k : Key) (b : Block) : Block :=
  (Nat.iterate (invA k) 64 { v0 := b.v0, v1 := b.v1, sum := Config.sum64A }).block

end Sys2Proof.Machine
end

