-- ==== Sys2Proof/Machine/VariantB.lean ====
section
/-! DEFINITION. Variant B (41_variant_b.md): the round function, the two double-rounds, the commands `XFRM_B`, `ENC_B`
and `DEC_B`, and the end-to-end function. -/

namespace Sys2Proof.Machine

/-- R120: the mixing function `GB`: three terms added. -/
def mixB (x s kw : Word) : Word :=
  add64 (add64 (xor64 (shl64 x Config.shlB) (shr64 x Config.shrB)) (xor64 x s)) kw

/-- R122: the forward double-round `FwdB`. -/
def fwdB (k : Key) (r : Rnd) : Rnd :=
  let v0 := add64 r.v0 (mixB r.v1 r.sum (keyV0 k r.sum))
  let sum := add64 r.sum Config.deltaB
  let v1 := add64 r.v1 (mixB v0 sum (keyV1B k sum))
  { v0 := v0, v1 := v1, sum := sum }

/-- R123: the inverse double-round `InvB`. -/
def invB (k : Key) (r : Rnd) : Rnd :=
  let v1 := sub64 r.v1 (mixB r.v0 r.sum (keyV1B k r.sum))
  let sum := sub64 r.sum Config.deltaB
  let v0 := sub64 r.v0 (mixB v1 sum (keyV0 k sum))
  { v0 := v0, v1 := v1, sum := sum }

/-- R127: a Variant B round step. -/
def roundB (c : CoreState) : CoreState :=
  c.withRnd (if c.dir then invB c.key c.rnd else fwdB c.key c.rnd)

/-- R127: an engine step of a Variant B command; the only test is equality of the two words `SUM` and `LIMIT`. -/
def stepB (c : CoreState) : CoreState := if c.sum = c.limit then complete c else roundB c

/-- R125: the start values of `ENC_B`. -/
def startEncB (c : CoreState) : CoreState := accept 3#4 false 0#64 Config.sum64B 0#7 c

/-- R126: the start values of `DEC_B`. -/
def startDecB (c : CoreState) : CoreState := accept 4#4 true Config.sum64B 0#64 0#7 c

/-- R124: the start values of `XFRM_B`, by the sign of the count in `ROUNDS`. -/
def startXfrmB (c : CoreState) : CoreState :=
  if c.rounds = 0#64 then accept 5#4 false 0#64 0#64 0#7 c
  else if c.rounds.msb = false then accept 5#4 false 0#64 (mul64 Config.deltaB c.rounds) 0#7 c
  else accept 5#4 true (mul64 Config.deltaB (neg64 c.rounds)) 0#64 0#7 c

/-- R125: `ENC_B`. -/
def execEncB (s : State) : Result := .next (s.withCore (presentCommand startEncB s.core))

/-- R126: `DEC_B`. -/
def execDecB (s : State) : Result := .next (s.withCore (presentCommand startDecB s.core))

/-- R124: `XFRM_B`. -/
def execXfrmB (s : State) : Result := .next (s.withCore (presentCommand startXfrmB s.core))

/-- R128: `while SUM != LIMIT do round`, with a bound on the number of rounds so that the loop is a structural
recursion. R132 says that `PERIOD_B` rounds are always enough (log entry 15). -/
def whileB (round : Rnd → Rnd) (limit : Word) : Nat → Rnd → Rnd
  | 0, r => r
  | fuel + 1, r => if r.sum = limit then r else whileB round limit fuel (round r)

/-- R128: `XfrmB(K, B, N)`, the count given as the 64-bit pattern of `N`. -/
def transformB (k : Key) (b : Block) (r : Word) : Block :=
  if r = 0#64 then b
  else if r.msb = false then
    (whileB (fwdB k) (mul64 Config.deltaB r) Config.periodB { v0 := b.v0, v1 := b.v1, sum := 0#64 }).block
  else
    (whileB (invB k) 0#64 Config.periodB
      { v0 := b.v0, v1 := b.v1, sum := mul64 Config.deltaB (neg64 r) }).block

end Sys2Proof.Machine
end

