-- ==== Sys2Proof/Machine/Commands.lean ====
section
/-! DEFINITION. The commands that are not cipher commands, and the command dispatch (42_control_and_access.md R150,
R154). -/

namespace Sys2Proof.Machine

/-- R150: `NOP`: nothing while idle, error 2 while busy. -/
def execNop (s : State) : Result := .next (s.withCore (presentCommand (fun c => c) s.core))

/-- R154, R85: what a command word does while idle. -/
def dispatchCommand (w : Word) (c : CoreState) : CoreState :=
  if 5#64 < w then recordErr errIllegalCmd c
  else if w = 0#64 then c
  else if w = 1#64 then startEncA c
  else if w = 2#64 then startDecA c
  else if w = 3#64 then startEncB c
  else if w = 4#64 then startDecB c
  else startXfrmB c

/-- R154: `WR CMD, w`. The busy test comes first (R173). -/
def execWrCmd (w : Word) (s : State) : Result :=
  .next (s.withCore (presentCommand (dispatchCommand w) s.core))

end Sys2Proof.Machine
end

