-- ==== Sys2Proof/Machine/Reads.lean ====
section
/-! DEFINITION. The read transactions (42_control_and_access.md R157 to R162): each returns `RegRead(idx)` and changes
no state (R52, R58). -/

namespace Sys2Proof.Machine

/-- R157: `RD KEY0`. -/
def execRdKey0 (s : State) : Result := .next (s.returnWord (regRead s.core 0#4))

/-- R157: `RD KEY1`. -/
def execRdKey1 (s : State) : Result := .next (s.returnWord (regRead s.core 1#4))

/-- R157: `RD KEY2`. -/
def execRdKey2 (s : State) : Result := .next (s.returnWord (regRead s.core 2#4))

/-- R157: `RD KEY3`. -/
def execRdKey3 (s : State) : Result := .next (s.returnWord (regRead s.core 3#4))

/-- R158: `RD BLK0`. -/
def execRdBlk0 (s : State) : Result := .next (s.returnWord (regRead s.core 4#4))

/-- R158: `RD BLK1`. -/
def execRdBlk1 (s : State) : Result := .next (s.returnWord (regRead s.core 5#4))

/-- R159: `RD ROUNDS`. -/
def execRdRounds (s : State) : Result := .next (s.returnWord (regRead s.core 6#4))

/-- R160: `RD CMD`. -/
def execRdCmd (s : State) : Result := .next (s.returnWord (regRead s.core 7#4))

/-- R161: `RD STATUS`. -/
def execRdStatus (s : State) : Result := .next (s.returnWord (regRead s.core 8#4))

/-- R162: `RD R9`. -/
def execRdR9 (s : State) : Result := .next (s.returnWord (regRead s.core 9#4))

/-- R162: `RD R10`. -/
def execRdR10 (s : State) : Result := .next (s.returnWord (regRead s.core 10#4))

/-- R162: `RD R11`. -/
def execRdR11 (s : State) : Result := .next (s.returnWord (regRead s.core 11#4))

/-- R162: `RD R12`. -/
def execRdR12 (s : State) : Result := .next (s.returnWord (regRead s.core 12#4))

/-- R162: `RD R13`. -/
def execRdR13 (s : State) : Result := .next (s.returnWord (regRead s.core 13#4))

/-- R162: `RD R14`. -/
def execRdR14 (s : State) : Result := .next (s.returnWord (regRead s.core 14#4))

/-- R162: `RD R15`. -/
def execRdR15 (s : State) : Result := .next (s.returnWord (regRead s.core 15#4))

end Sys2Proof.Machine
end

