-- ==== Sys2Proof/Machine/Writes.lean ====
section
/-! DEFINITION. The write transactions but for `WR CMD` (42_control_and_access.md R151, R152, R153, R155, R156). -/

namespace Sys2Proof.Machine

/-- R151: `WR KEY0, w`. -/
def execWrKey0 (w : Word) (s : State) : Result :=
  .next (s.withCore (storeData (fun c => { c with key := { c.key with k0 := w } }) s.core))

/-- R151: `WR KEY1, w`. -/
def execWrKey1 (w : Word) (s : State) : Result :=
  .next (s.withCore (storeData (fun c => { c with key := { c.key with k1 := w } }) s.core))

/-- R151: `WR KEY2, w`. -/
def execWrKey2 (w : Word) (s : State) : Result :=
  .next (s.withCore (storeData (fun c => { c with key := { c.key with k2 := w } }) s.core))

/-- R151: `WR KEY3, w`. -/
def execWrKey3 (w : Word) (s : State) : Result :=
  .next (s.withCore (storeData (fun c => { c with key := { c.key with k3 := w } }) s.core))

/-- R152: `WR BLK0, w`. It does not clear `DONE`. -/
def execWrBlk0 (w : Word) (s : State) : Result :=
  .next (s.withCore (storeData (fun c => { c with block := { c.block with v0 := w } }) s.core))

/-- R152: `WR BLK1, w`. It does not clear `DONE`. -/
def execWrBlk1 (w : Word) (s : State) : Result :=
  .next (s.withCore (storeData (fun c => { c with block := { c.block with v1 := w } }) s.core))

/-- R153: `WR ROUNDS, w`. -/
def execWrRounds (w : Word) (s : State) : Result :=
  .next (s.withCore (storeData (fun c => { c with rounds := w }) s.core))

/-- R155: `WR STATUS, w`: the data is ignored; allowed idle and busy. -/
def execWrStatus (_w : Word) (s : State) : Result := .next (s.withCore (acknowledge s.core))

/-- R156: a write to a reserved index has no effect on any state and records no error. -/
def reservedWrite (_w : Word) (c : CoreState) : CoreState := c

/-- R156: `WR R9, w`. -/
def execWrR9 (w : Word) (s : State) : Result := .next (s.withCore (reservedWrite w s.core))

/-- R156: `WR R10, w`. -/
def execWrR10 (w : Word) (s : State) : Result := .next (s.withCore (reservedWrite w s.core))

/-- R156: `WR R11, w`. -/
def execWrR11 (w : Word) (s : State) : Result := .next (s.withCore (reservedWrite w s.core))

/-- R156: `WR R12, w`. -/
def execWrR12 (w : Word) (s : State) : Result := .next (s.withCore (reservedWrite w s.core))

/-- R156: `WR R13, w`. -/
def execWrR13 (w : Word) (s : State) : Result := .next (s.withCore (reservedWrite w s.core))

/-- R156: `WR R14, w`. -/
def execWrR14 (w : Word) (s : State) : Result := .next (s.withCore (reservedWrite w s.core))

/-- R156: `WR R15, w`. -/
def execWrR15 (w : Word) (s : State) : Result := .next (s.withCore (reservedWrite w s.core))

end Sys2Proof.Machine
end

