-- ==== Sys2Proof/Syntax.lean ====
section
/-! DEFINITION. The instructions: one constructor for each row of spec/opcode_table.json (30_encoding.md R83). -/

namespace Sys2Proof

/-- The six command words of format `CMD` (R82, R83), then the host transactions of format `BUS` (R81): `WR` of the
sixteen register indices with the data written, and `RD` of the sixteen register indices. The data field of a read is
ignored (R81), so a read carries none (log entry 11). -/
inductive Instr where
  /-- `NOP`, command word 0 (R150). -/
  | nop
  /-- `ENC_A`, command word 1 (R104). -/
  | encA
  /-- `DEC_A`, command word 2 (R105). -/
  | decA
  /-- `ENC_B`, command word 3 (R125). -/
  | encB
  /-- `DEC_B`, command word 4 (R126). -/
  | decB
  /-- `XFRM_B`, command word 5 (R124). -/
  | xfrmB
  /-- `WR KEY0`, index 0 (R151). -/
  | wrKey0 (w : Word)
  /-- `WR KEY1`, index 1 (R151). -/
  | wrKey1 (w : Word)
  /-- `WR KEY2`, index 2 (R151). -/
  | wrKey2 (w : Word)
  /-- `WR KEY3`, index 3 (R151). -/
  | wrKey3 (w : Word)
  /-- `WR BLK0`, index 4 (R152). -/
  | wrBlk0 (w : Word)
  /-- `WR BLK1`, index 5 (R152). -/
  | wrBlk1 (w : Word)
  /-- `WR ROUNDS`, index 6 (R153). -/
  | wrRounds (w : Word)
  /-- `WR CMD`, index 7 (R154). -/
  | wrCmd (w : Word)
  /-- `WR STATUS`, index 8 (R155). -/
  | wrStatus (w : Word)
  /-- `WR R9`, index 9 (R156). -/
  | wrR9 (w : Word)
  /-- `WR R10`, index 10 (R156). -/
  | wrR10 (w : Word)
  /-- `WR R11`, index 11 (R156). -/
  | wrR11 (w : Word)
  /-- `WR R12`, index 12 (R156). -/
  | wrR12 (w : Word)
  /-- `WR R13`, index 13 (R156). -/
  | wrR13 (w : Word)
  /-- `WR R14`, index 14 (R156). -/
  | wrR14 (w : Word)
  /-- `WR R15`, index 15 (R156). -/
  | wrR15 (w : Word)
  /-- `RD KEY0`, index 0 (R157). -/
  | rdKey0
  /-- `RD KEY1`, index 1 (R157). -/
  | rdKey1
  /-- `RD KEY2`, index 2 (R157). -/
  | rdKey2
  /-- `RD KEY3`, index 3 (R157). -/
  | rdKey3
  /-- `RD BLK0`, index 4 (R158). -/
  | rdBlk0
  /-- `RD BLK1`, index 5 (R158). -/
  | rdBlk1
  /-- `RD ROUNDS`, index 6 (R159). -/
  | rdRounds
  /-- `RD CMD`, index 7 (R160). -/
  | rdCmd
  /-- `RD STATUS`, index 8 (R161). -/
  | rdStatus
  /-- `RD R9`, index 9 (R162). -/
  | rdR9
  /-- `RD R10`, index 10 (R162). -/
  | rdR10
  /-- `RD R11`, index 11 (R162). -/
  | rdR11
  /-- `RD R12`, index 12 (R162). -/
  | rdR12
  /-- `RD R13`, index 13 (R162). -/
  | rdR13
  /-- `RD R14`, index 14 (R162). -/
  | rdR14
  /-- `RD R15`, index 15 (R162). -/
  | rdR15
  deriving DecidableEq, Repr

/-- The read transactions: the instructions that change no state (R58). -/
def Instr.isRead : Instr → Bool
  | .nop | .encA | .decA | .encB | .decB | .xfrmB => false
  | .wrKey0 _ | .wrKey1 _ | .wrKey2 _ | .wrKey3 _ | .wrBlk0 _ | .wrBlk1 _ | .wrRounds _ | .wrCmd _
  | .wrStatus _ | .wrR9 _ | .wrR10 _ | .wrR11 _ | .wrR12 _ | .wrR13 _ | .wrR14 _ | .wrR15 _ => false
  | .rdKey0 | .rdKey1 | .rdKey2 | .rdKey3 | .rdBlk0 | .rdBlk1 | .rdRounds | .rdCmd
  | .rdStatus | .rdR9 | .rdR10 | .rdR11 | .rdR12 | .rdR13 | .rdR14 | .rdR15 => true

end Sys2Proof
end

