-- ==== Sys2Proof/Machine/Dispatch.lean ====
section
/-! DEFINITION. One arm per instruction: the meaning it has. -/

namespace Sys2Proof.Machine

def exec (i : Instr) (s : State) : Host.Outcome State Fault Refusal :=
  match i with
  | .nop => Sys2Proof.Machine.execNop s
  | .encA => Sys2Proof.Machine.execEncA s
  | .decA => Sys2Proof.Machine.execDecA s
  | .encB => Sys2Proof.Machine.execEncB s
  | .decB => Sys2Proof.Machine.execDecB s
  | .xfrmB => Sys2Proof.Machine.execXfrmB s
  | .wrKey0 w => Sys2Proof.Machine.execWrKey0 w s
  | .wrKey1 w => Sys2Proof.Machine.execWrKey1 w s
  | .wrKey2 w => Sys2Proof.Machine.execWrKey2 w s
  | .wrKey3 w => Sys2Proof.Machine.execWrKey3 w s
  | .wrBlk0 w => Sys2Proof.Machine.execWrBlk0 w s
  | .wrBlk1 w => Sys2Proof.Machine.execWrBlk1 w s
  | .wrRounds w => Sys2Proof.Machine.execWrRounds w s
  | .wrCmd w => Sys2Proof.Machine.execWrCmd w s
  | .wrStatus w => Sys2Proof.Machine.execWrStatus w s
  | .wrR9 w => Sys2Proof.Machine.execWrR9 w s
  | .wrR10 w => Sys2Proof.Machine.execWrR10 w s
  | .wrR11 w => Sys2Proof.Machine.execWrR11 w s
  | .wrR12 w => Sys2Proof.Machine.execWrR12 w s
  | .wrR13 w => Sys2Proof.Machine.execWrR13 w s
  | .wrR14 w => Sys2Proof.Machine.execWrR14 w s
  | .wrR15 w => Sys2Proof.Machine.execWrR15 w s
  | .rdKey0 => Sys2Proof.Machine.execRdKey0 s
  | .rdKey1 => Sys2Proof.Machine.execRdKey1 s
  | .rdKey2 => Sys2Proof.Machine.execRdKey2 s
  | .rdKey3 => Sys2Proof.Machine.execRdKey3 s
  | .rdBlk0 => Sys2Proof.Machine.execRdBlk0 s
  | .rdBlk1 => Sys2Proof.Machine.execRdBlk1 s
  | .rdRounds => Sys2Proof.Machine.execRdRounds s
  | .rdCmd => Sys2Proof.Machine.execRdCmd s
  | .rdStatus => Sys2Proof.Machine.execRdStatus s
  | .rdR9 => Sys2Proof.Machine.execRdR9 s
  | .rdR10 => Sys2Proof.Machine.execRdR10 s
  | .rdR11 => Sys2Proof.Machine.execRdR11 s
  | .rdR12 => Sys2Proof.Machine.execRdR12 s
  | .rdR13 => Sys2Proof.Machine.execRdR13 s
  | .rdR14 => Sys2Proof.Machine.execRdR14 s
  | .rdR15 => Sys2Proof.Machine.execRdR15 s

end Sys2Proof.Machine
end

