-- ==== Sys2Proof/Machine/Engine.lean ====
section
/-! DEFINITION. The engine (42_control_and_access.md R163). -/

namespace Sys2Proof.Machine

/-- R163: one engine step. With `BUSY = 0` there is none and nothing changes (log entry 4). `BUSY = 1` with `OPR` outside
1 to 5 cannot occur and has no step (log entry 5). -/
def engineStep (c : CoreState) : Except Fault CoreState :=
  if c.busy = false then .ok c
  else if isVariantA c.opr then .ok (stepA c)
  else if isVariantB c.opr then .ok (stepB c)
  else .error .noOperation

/-- The engine's turn on the machine (R62). -/
def engineTurn (s : State) : Result :=
  match engineStep s.core with
  | .ok c => .next (s.withCore c)
  | .error f => .fault f

end Sys2Proof.Machine
end

