-- ==== Sys2Proof/Decode.lean ====
section
/-! DEFINITION. The decoder and, after it, the encoder of host transactions and command words (30_encoding.md R80 to
R87). Both formats are laid out as bytes in the little-endian view of R56, the one the opcode table's numbering uses. -/

namespace Sys2Proof

/-- Why a byte string is no instruction. The port cannot carry any of these but an illegal command word, and that one
the machine handles itself as `WR CMD` (R154): the decoder's refusals stop nothing (log entry 16). -/
inductive DecodeError where
  /-- Neither the 8 bytes of a command word nor the 9 bytes of a host transaction (R80). -/
  | wrongLength (n : Nat)
  /-- A command word greater than 5 (R85). -/
  | illegalCommand (w : Word)
  /-- A bit above bit 68 is set: a host transaction has 69 bits (R80). -/
  | nonzeroPadding (v : Nat)
  deriving DecidableEq, Repr

/-- R81: bit 68, 1 for a write. -/
def busWe (b : BitVec 69) : Bool := b.getLsbD 68

/-- R81: bits 67:64, the register index. -/
def busIdx (b : BitVec 69) : BitVec 4 := b.extractLsb' 64 4

/-- R81: bits 63:0, the data of a write. -/
def busData (b : BitVec 69) : Word := b.extractLsb' 0 64

/-- R81: the 69-bit value `we ‖ idx ‖ wdata`. -/
def busWord (we : Bool) (idx : BitVec 4) (w : Word) : BitVec 69 := BitVec.ofBool we ++ idx ++ w

/-- R81, R53: the write transaction at a register index. -/
def decodeWrite (idx : BitVec 4) (w : Word) : Instr :=
  match idx with
  | 0#4 => .wrKey0 w
  | 1#4 => .wrKey1 w
  | 2#4 => .wrKey2 w
  | 3#4 => .wrKey3 w
  | 4#4 => .wrBlk0 w
  | 5#4 => .wrBlk1 w
  | 6#4 => .wrRounds w
  | 7#4 => .wrCmd w
  | 8#4 => .wrStatus w
  | 9#4 => .wrR9 w
  | 10#4 => .wrR10 w
  | 11#4 => .wrR11 w
  | 12#4 => .wrR12 w
  | 13#4 => .wrR13 w
  | 14#4 => .wrR14 w
  | _ => .wrR15 w

/-- R81, R53: the read transaction at a register index. -/
def decodeRead (idx : BitVec 4) : Instr :=
  match idx with
  | 0#4 => .rdKey0
  | 1#4 => .rdKey1
  | 2#4 => .rdKey2
  | 3#4 => .rdKey3
  | 4#4 => .rdBlk0
  | 5#4 => .rdBlk1
  | 6#4 => .rdRounds
  | 7#4 => .rdCmd
  | 8#4 => .rdStatus
  | 9#4 => .rdR9
  | 10#4 => .rdR10
  | 11#4 => .rdR11
  | 12#4 => .rdR12
  | 13#4 => .rdR13
  | 14#4 => .rdR14
  | _ => .rdR15

/-- R81: every 69-bit word is a host transaction. -/
def decodeBus (b : BitVec 69) : Instr :=
  if busWe b then decodeWrite (busIdx b) (busData b) else decodeRead (busIdx b)

/-- R83, R85: a command word is matched on all 64 bits; a word greater than 5 is illegal. -/
def decodeCmd (w : Word) : Option Instr :=
  match w with
  | 0#64 => some .nop
  | 1#64 => some .encA
  | 2#64 => some .decA
  | 3#64 => some .encB
  | 4#64 => some .decB
  | 5#64 => some .xfrmB
  | _ => none

/-- R56: the number a byte string stands for, the first byte least significant. -/
def fromBytes : List Byte → Nat
  | [] => 0
  | b :: bs => b.toNat + 256 * fromBytes bs

/-- R56: the low `n` bytes of a number, least significant first. -/
def toBytes : Nat → Nat → List Byte
  | 0, _ => []
  | n + 1, v => BitVec.ofNat 8 v :: toBytes n (v / 256)

/-- R80: the decoder, total on byte strings. Eight bytes are a command word, nine bytes a host transaction. -/
def decode (bs : List Byte) : Except DecodeError Instr :=
  if bs.length = 8 then
    match decodeCmd (BitVec.ofNat 64 (fromBytes bs)) with
    | some i => .ok i
    | none => .error (.illegalCommand (BitVec.ofNat 64 (fromBytes bs)))
  else if bs.length = 9 then
    if fromBytes bs < 2 ^ 69 then .ok (decodeBus (BitVec.ofNat 69 (fromBytes bs)))
    else .error (.nonzeroPadding (fromBytes bs))
  else .error (.wrongLength bs.length)

/-- The instruction the decoder reads from `nbits` table bits `w`: the bits laid out as bytes, first byte lowest. -/
def decodeTableWord (nbits w : Nat) : Option Instr :=
  match decode (toBytes ((nbits + 7) / 8) w) with
  | .ok i => some i
  | .error _ => none

/-- An encoded instruction in its own format (R80). -/
inductive Encoded where
  /-- A 64-bit command word (R82). -/
  | cmd (w : Word)
  /-- A 69-bit host transaction (R81). -/
  | bus (b : BitVec 69)
  deriving DecidableEq, Repr

/-- R81, R83: the word of an instruction. A read's ignored data field is 0, as the spec's convention has it. -/
def encodeWord : Instr → Encoded
  | .nop => .cmd 0#64
  | .encA => .cmd 1#64
  | .decA => .cmd 2#64
  | .encB => .cmd 3#64
  | .decB => .cmd 4#64
  | .xfrmB => .cmd 5#64
  | .wrKey0 w => .bus (busWord true 0#4 w)
  | .wrKey1 w => .bus (busWord true 1#4 w)
  | .wrKey2 w => .bus (busWord true 2#4 w)
  | .wrKey3 w => .bus (busWord true 3#4 w)
  | .wrBlk0 w => .bus (busWord true 4#4 w)
  | .wrBlk1 w => .bus (busWord true 5#4 w)
  | .wrRounds w => .bus (busWord true 6#4 w)
  | .wrCmd w => .bus (busWord true 7#4 w)
  | .wrStatus w => .bus (busWord true 8#4 w)
  | .wrR9 w => .bus (busWord true 9#4 w)
  | .wrR10 w => .bus (busWord true 10#4 w)
  | .wrR11 w => .bus (busWord true 11#4 w)
  | .wrR12 w => .bus (busWord true 12#4 w)
  | .wrR13 w => .bus (busWord true 13#4 w)
  | .wrR14 w => .bus (busWord true 14#4 w)
  | .wrR15 w => .bus (busWord true 15#4 w)
  | .rdKey0 => .bus (busWord false 0#4 0#64)
  | .rdKey1 => .bus (busWord false 1#4 0#64)
  | .rdKey2 => .bus (busWord false 2#4 0#64)
  | .rdKey3 => .bus (busWord false 3#4 0#64)
  | .rdBlk0 => .bus (busWord false 4#4 0#64)
  | .rdBlk1 => .bus (busWord false 5#4 0#64)
  | .rdRounds => .bus (busWord false 6#4 0#64)
  | .rdCmd => .bus (busWord false 7#4 0#64)
  | .rdStatus => .bus (busWord false 8#4 0#64)
  | .rdR9 => .bus (busWord false 9#4 0#64)
  | .rdR10 => .bus (busWord false 10#4 0#64)
  | .rdR11 => .bus (busWord false 11#4 0#64)
  | .rdR12 => .bus (busWord false 12#4 0#64)
  | .rdR13 => .bus (busWord false 13#4 0#64)
  | .rdR14 => .bus (busWord false 14#4 0#64)
  | .rdR15 => .bus (busWord false 15#4 0#64)

/-- The bytes of an instruction: eight of a command word, nine of a host transaction (bits 71:69 zero). -/
def encode (i : Instr) : List Byte :=
  match encodeWord i with
  | .cmd w => toBytes 8 w.toNat
  | .bus b => toBytes 9 b.toNat

end Sys2Proof
end

