-- ==== Sys2Proof/Machine/Scripts.lean ====
section
/-! DEFINITION. Host programs: the lines and pseudo-instructions of 30_encoding.md R89 and R90, and the two ways a program
becomes the events of a run (R62, R67). -/

namespace Sys2Proof.Machine

/-- A line of a host program: a transaction as its 69-bit port word (R89), or the one pseudo-instruction whose expansion
depends on the values read (R90). -/
inductive Line where
  | transaction (bus : BitVec 69)
  | wait
  deriving DecidableEq, Repr

/-- R89: `WR <reg>, <word>`. -/
def scriptWr (idx : BitVec 4) (w : Word) : BitVec 69 := busWord true idx w

/-- R89: `RD <reg>`; the data field is 0. -/
def scriptRd (idx : BitVec 4) : BitVec 69 := busWord false idx 0#64

/-- R89: a `WR` line. -/
def wr (idx : BitVec 4) (w : Word) : Line := .transaction (scriptWr idx w)

/-- R89: an `RD` line. -/
def rd (idx : BitVec 4) : Line := .transaction (scriptRd idx)

/-- R90: `LDKEY k0, k1, k2, k3`. -/
def ldKey (k : Key) : List Line := [wr 0#4 k.k0, wr 1#4 k.k1, wr 2#4 k.k2, wr 3#4 k.k3]

/-- R90: `LDBLK v0, v1`. -/
def ldBlk (b : Block) : List Line := [wr 4#4 b.v0, wr 5#4 b.v1]

/-- R90: `LDN n`, the count as a 64-bit two's complement word. -/
def ldN (n : Int) : List Line := [wr 6#4 (BitVec.ofInt 64 n)]

/-- R90: `WAIT`. -/
def wait : List Line := [.wait]

/-- R90: `RUN <cmd>`. -/
def runCmd (cmd : Word) : List Line := wr 7#4 cmd :: wait

/-- R90: `RDBLK`. -/
def rdBlk : List Line := [rd 4#4, rd 5#4]

/-- R90: `CLR`. -/
def clr : List Line := [wr 8#4 0#64]

/-- R90: `encryptBlock_A(k, b)`. -/
def encryptBlockA (k : Key) (b : Block) : List Line := ldKey k ++ ldBlk b ++ runCmd 1#64 ++ rdBlk

/-- R90: `decryptBlock_A(k, b)`. -/
def decryptBlockA (k : Key) (b : Block) : List Line := ldKey k ++ ldBlk b ++ runCmd 2#64 ++ rdBlk

/-- R90: `encryptBlock_B(k, b)`. -/
def encryptBlockB (k : Key) (b : Block) : List Line := ldKey k ++ ldBlk b ++ runCmd 3#64 ++ rdBlk

/-- R90: `decryptBlock_B(k, b)`. -/
def decryptBlockB (k : Key) (b : Block) : List Line := ldKey k ++ ldBlk b ++ runCmd 4#64 ++ rdBlk

/-- R90: `feistelTransform(k, b, n)`. -/
def feistelTransform (k : Key) (b : Block) (n : Int) : List Line :=
  ldKey k ++ ldBlk b ++ ldN n ++ runCmd 5#64 ++ rdBlk

/-- R62: where the interleaving puts other steps around one line: how many before it, and, for a `WAIT`, how many after each
of its polls that reads `BUSY = 1` (log entry 17). -/
structure Pace where
  before : Nat
  gaps : List Nat
  deriving DecidableEq, Repr

/-- One line as an event: `host` makes a transaction one, `wait` a `WAIT` with its gaps. -/
def Line.event (host : BitVec 69 → Event) (wait : List Nat → Event) (gaps : List Nat) : Line → Event
  | .transaction bus => host bus
  | .wait => wait gaps

/-- A program as the events of a run: `idle` passes between lines. Each line has its pace; a line past the last pace follows
at once. -/
def weave (idle : Event) (host : BitVec 69 → Event) (wait : List Nat → Event) : List Pace → List Line → List Event
  | _, [] => []
  | paces, l :: ls =>
    let pace := paces.headD { before := 0, gaps := [] }
    List.replicate pace.before idle ++ l.event host wait pace.gaps :: weave idle host wait paces.tail ls

/-- R51: the pins that carry a transaction. -/
def pinsOf (bus : BitVec 69) : Pins :=
  { rst := false, sel := true, we := busWe bus, idx := busIdx bus, wdata := busData bus }

/-- R51: the pins of a cycle without a transaction. -/
def idlePins : Pins := { rst := false, sel := false, we := false, idx := 0#4, wdata := 0#64 }

/-- R62: a program in the untimed model, with the engine turns that fall between its lines. -/
def asTransactions (paces : List Pace) (l : List Line) : List Event := weave .engine .host .wait paces l

/-- R67: a program in the clocked refinement, one transaction a clock cycle, with the cycles that pass between its lines. -/
def asCycles (paces : List Pace) (l : List Line) : List Event :=
  weave (.clock idlePins) (fun bus => .clock (pinsOf bus)) .waitCycles paces l

end Sys2Proof.Machine
end

