-- ==== Sys2Proof/Machine/Agents.lean ====
section
/-! DEFINITION. The agents: what each event of a run does (20_memory.md R52, R62, R67; 70_reset_and_hazards.md R190;
30_encoding.md R90), and how a host transaction is put on the port. -/

namespace Sys2Proof.Machine

/-- R52, R81: a host transaction is the instruction its 69 bits decode to, run atomically. -/
def hostTurn (bus : BitVec 69) (s : State) : Result := exec (decodeBus bus) s

/-- R51, R81: the transaction the pins carry when `sel = 1`. -/
def Pins.bus (p : Pins) : BitVec 69 := busWord p.we p.idx p.wdata

/-- R67, R190: one rising clock edge. Reset has priority and discards the rest (log entry 10). Otherwise the host's
transaction, if any, acts first on the state before the edge, then the engine steps if `BUSY` was 1 before the edge; so
the cycle of an accept has no engine step (log entry 18). -/
def clockEdge (p : Pins) (s : State) : Result :=
  if p.rst then .next s.resetCore
  else if p.sel then
    if s.core.busy then
      match hostTurn p.bus s with
      | .next t => engineTurn t
      | .fault f => .fault f
      | .refused r => .refused r
    else hostTurn p.bus s
  else if s.core.busy then engineTurn s
  else .next s

/-- R90: one poll of a `WAIT`. `poll` carries out `RD STATUS`; where the word read has bit 0 equal to 1, `again` comes
next. The word read is what `STATUS` holds before the transaction, in a clock cycle too (R161, R67). -/
def pollStatus (poll : State → Result) (again : List Event) (s : State) : Result :=
  match poll s with
  | .next t => .next (if readsBusy (regRead s.core 8#4) then t.before again else t)
  | .fault f => .fault f
  | .refused r => .refused r

/-- R90, R62: what follows a poll that reads `BUSY = 1`: the engine turns the interleaving puts there, one where it names
none any more (R68), and the `WAIT` again (log entry 17). -/
def waitAgain (gaps : List Nat) : List Event := List.replicate (gaps.headD 1) .engine ++ [.wait gaps.tail]

/-- R90, R67: the same in clock cycles; where the list names none any more the next poll is in the next cycle (log
entry 17). -/
def waitCyclesAgain (gaps : List Nat) : List Event :=
  List.replicate (gaps.headD 0) (.clock idlePins) ++ [.waitCycles gaps.tail]

/-- R90: the untimed `WAIT`, one poll. -/
def waitTurn (gaps : List Nat) : State → Result := pollStatus (hostTurn (scriptRd 8#4)) (waitAgain gaps)

/-- R90: the clocked `WAIT`, one poll. -/
def waitCycle (gaps : List Nat) : State → Result := pollStatus (clockEdge (pinsOf (scriptRd 8#4))) (waitCyclesAgain gaps)

/-- What an event does (R62). -/
def runEvent (e : Event) (s : State) : Result :=
  match e with
  | .host bus => hostTurn bus s
  | .engine => engineTurn s
  | .reset => .next s.resetCore
  | .clock p => clockEdge p s
  | .wait gaps => waitTurn gaps s
  | .waitCycles gaps => waitCycle gaps s

/-- The transaction that carries a table word: a command word is the data of a write to index 7 (R80, R82), any other
word is the transaction itself (R81). -/
def carrier (nbits w : Nat) : BitVec 69 :=
  if nbits ≤ 64 then busWord true 7#4 (BitVec.ofNat 64 w) else BitVec.ofNat 69 w

end Sys2Proof.Machine
end

