-- ==== Sys2Proof/Machine/Step.lean ====
section
/-! DEFINITION. One step of the machine, and the placing of an instruction where the next step takes it. -/

namespace Sys2Proof.Machine

/-- One atomic step (R62): the next scripted event. With nothing scripted the engine goes on by itself if it is busy, and
an idle core stays as it is (R68; log entry 3). -/
def step (s : State) : Host.Outcome State Fault Refusal :=
  match s.script with
  | [] => engineTurn s
  | e :: rest => runEvent e { s with script := rest }

/-- The machine with the host about to issue the transaction that carries table word `w` (log entries 6 and 8). -/
def State.withFetchWord (s : State) (nbits w : Nat) : State :=
  { s with script := Event.host (carrier nbits w) :: s.script }

end Sys2Proof.Machine
end

