-- ==== Sys2Proof/Safety.lean ====
section
/-! DEFINITION. The terms claims are stated in: runs, the reachable-state invariant (10_state.md R26 to R32, R37;
93_implementation_defined.md V10), safe runs, and what a cipher command computes (R107, R128, R202). -/

namespace Sys2Proof.Machine

/-- `n` steps of the machine, stopping at the first fault or refusal. -/
def run : Nat → State → Result
  | 0, s => .next s
  | n + 1, s =>
    match step s with
    | .next t => run n t
    | .fault f => .fault f
    | .refused r => .refused r

/-- A safe run never stops (R170: no cipher operation fails; R58, R62: every transaction and engine step completes). -/
def SafeRun (s : State) : Prop := ∀ n, ∃ t, run n s = .next t

/-- The engine's turn. -/
def Event.isEngine : Event → Bool
  | .engine => true
  | .host _ => false
  | .reset => false
  | .clock _ => false
  | .wait _ => false
  | .waitCycles _ => false

/-- A host transaction. -/
def Event.isHost : Event → Bool
  | .host _ => true
  | .engine => false
  | .reset => false
  | .clock _ => false
  | .wait _ => false
  | .waitCycles _ => false

/-- A host read transaction. -/
def Event.isRead : Event → Bool
  | .host bus => (decodeBus bus).isRead
  | .engine => false
  | .reset => false
  | .clock _ => false
  | .wait _ => false
  | .waitCycles _ => false

/-- The number of the engine's turns in a stretch of a run. -/
def engineTurns (es : List Event) : Nat := es.countP Event.isEngine

/-- A stretch of a run in which the host does anything it likes (R62). -/
def HostAndEngine (es : List Event) : Prop := ∀ e ∈ es, e.isEngine = true ∨ e.isHost = true

/-- A stretch of a run in which the host only reads (R63). -/
def ReadsAndEngine (es : List Event) : Prop := ∀ e ∈ es, e.isEngine = true ∨ e.isRead = true

/-- The event acknowledges errors or resets the core: the only ways `ERR` returns to 0 (R172). -/
def Event.clearsErr (e : Event) : Prop :=
  match e with
  | .host bus => ∃ w, decodeBus bus = .wrStatus w
  | .engine => False
  | .reset => True
  | .clock p => p.rst = true ∨ (p.sel = true ∧ ∃ w, decodeBus p.bus = .wrStatus w)
  | .wait _ => False
  | .waitCycles _ => False

/-- The event writes a key word or resets the core. -/
def Event.writesKey (e : Event) : Prop :=
  match e with
  | .host bus => ∃ w, decodeBus bus = .wrKey0 w ∨ decodeBus bus = .wrKey1 w ∨ decodeBus bus = .wrKey2 w ∨
      decodeBus bus = .wrKey3 w
  | .engine => False
  | .reset => True
  | .clock p => p.rst = true ∨ (p.sel = true ∧ ∃ w, decodeBus p.bus = .wrKey0 w ∨ decodeBus p.bus = .wrKey1 w ∨
      decodeBus p.bus = .wrKey2 w ∨ decodeBus p.bus = .wrKey3 w)
  | .wait _ => False
  | .waitCycles _ => False

/-- The event resets the core (R190). -/
def Event.isReset : Event → Bool
  | .host _ => false
  | .engine => false
  | .reset => true
  | .clock p => p.rst
  | .wait _ => false
  | .waitCycles _ => false

/-- R37, the idle invariant. -/
def CoreState.IdleClear (c : CoreState) : Prop :=
  c.busy = false → c.sum = 0#64 ∧ c.limit = 0#64 ∧ c.cnt = 0#7 ∧ c.dir = false

/-- R28, R163: `OPR` is 0 to 5, and not 0 once a command has been accepted. -/
def CoreState.LegalOperation (c : CoreState) : Prop :=
  c.opr ≤ 5#4 ∧ (c.busy = true → c.opr ≠ 0#4) ∧ (c.done = true → c.opr ≠ 0#4)

/-- R32: `BUSY` and `DONE` are never both 1. -/
def CoreState.FlagsExclusive (c : CoreState) : Prop := c.busy = true → c.done = false

/-- R26, R107: the loop state of a running Variant A command: `CNT` double-rounds are left, and `SUM` is `DELTA_A` times
the number of double-rounds the accumulator stands at. -/
def CoreState.RunningA (c : CoreState) : Prop :=
  c.busy = true → isVariantA c.opr = true →
    c.limit = 0#64 ∧ c.cnt ≤ Config.roundsA ∧ c.dir = (c.opr == 2#4) ∧
    c.sum = mul64 Config.deltaA (BitVec.ofNat 64 (if c.dir then c.cnt.toNat else 64 - c.cnt.toNat))

/-- R25, R121, R124 to R126: the loop state of a running Variant B command: no counter, `SUM` and `LIMIT` multiples of 8,
the limit and the direction the command's. -/
def CoreState.RunningB (c : CoreState) : Prop :=
  c.busy = true → isVariantB c.opr = true →
    c.cnt = 0#7 ∧ c.sum.toNat % 8 = 0 ∧
    c.dir = (c.opr == 4#4 || (c.opr == 5#4 && c.rounds.msb)) ∧
    c.limit = (if c.dir then 0#64 else if c.opr == 3#4 then Config.sum64B else mul64 Config.deltaB c.rounds)

/-- The invariant of the reachable states. -/
structure CoreState.Inv (c : CoreState) : Prop where
  idle : c.IdleClear
  operation : c.LegalOperation
  flags : c.FlagsExclusive
  runningA : c.RunningA
  runningB : c.RunningB

/-- `w` is the command word of a cipher command (R83). -/
abbrev IsCipherCommand (w : Word) : Prop := 1#64 ≤ w ∧ w ≤ 5#64

/-- The number of double-rounds a cipher command performs on the operands in `c` (R106, R129, R202). -/
def commandRounds (w : Word) (c : CoreState) : Nat := if w = 5#64 then effectiveCount c.rounds else 64

/-- The block a cipher command leaves, as a function of the operands at the accept (R107, R128). -/
def commandResult (w : Word) (c : CoreState) : Block :=
  if w = 1#64 then encryptA c.key c.block
  else if w = 2#64 then decryptA c.key c.block
  else if w = 3#64 then transformB c.key c.block 64#64
  else if w = 4#64 then transformB c.key c.block (neg64 64#64)
  else transformB c.key c.block c.rounds

/-- An idle core after a cipher command has completed and nothing else has happened (R164). -/
def completedCore (w : Word) (c : CoreState) : CoreState :=
  { c with
    block := commandResult w c
    opr := w.setWidth 4
    busy := false
    done := true
    sum := 0#64
    limit := 0#64
    cnt := 0#7
    dir := false }

/-- R90: a source-level call's events, run from `s` before anything else, end; its `WAIT` polled until a poll read
`BUSY = 0` and no longer, so at least once; and `RDBLK` returned the halves of `b`, which `BLOCK` holds. -/
def CallReturns (s : State) (events : List Event) (b : Block) : Prop :=
  ∀ rest, ∃ n t busyPolls lastPoll,
    run n { s with script := events ++ rest } = .next t ∧ t.script = rest ∧
    t.core.busy = false ∧ t.core.block = b ∧
    t.reads = [b.v1, b.v0, lastPoll] ++ busyPolls ++ s.reads ∧
    readsBusy lastPoll = false ∧ ∀ w ∈ busyPolls, readsBusy w = true

end Sys2Proof.Machine
end

