-- ==== Sys2Proof/WellFormed.lean ====
section
/-! DEFINITION. What is well formed: instruction terms, and the byte strings that encode one (30_encoding.md R80, R82,
R85). -/

namespace Sys2Proof

/-- Every instruction term is well formed: the only operand is the data word of a write, every one of its 2^64 values
is legal (R21, R22, R23, R80; for `WR CMD` too, R85), and its type admits no other value. -/
def Instr.wellFormed : Instr → Bool
  | .nop | .encA | .decA | .encB | .decB | .xfrmB => true
  | .wrKey0 _ | .wrKey1 _ | .wrKey2 _ | .wrKey3 _ | .wrBlk0 _ | .wrBlk1 _ | .wrRounds _ | .wrCmd _
  | .wrStatus _ | .wrR9 _ | .wrR10 _ | .wrR11 _ | .wrR12 _ | .wrR13 _ | .wrR14 _ | .wrR15 _ => true
  | .rdKey0 | .rdKey1 | .rdKey2 | .rdKey3 | .rdBlk0 | .rdBlk1 | .rdRounds | .rdCmd
  | .rdStatus | .rdR9 | .rdR10 | .rdR11 | .rdR12 | .rdR13 | .rdR14 | .rdR15 => true

/-- R80: the two formats have 64 and 69 bits, so an encoding has 8 or 9 bytes. -/
def encodingLengthOk (bs : List Byte) : Bool := bs.length == 8 || bs.length == 9

/-- R82, R85: in an 8-byte encoding (a command word, low byte first) bits 63:4 are 0 and the opcode is at most 5. -/
def commandBytesOk (bs : List Byte) : Bool :=
  bs.length != 8 || (bs.tail.all (· == 0#8) && bs.head?.all (fun b => decide (b ≤ 5#8)))

/-- R80, R81: in a 9-byte encoding (a host transaction, low byte first) the bits above bit 68 are 0. -/
def transactionBytesOk (bs : List Byte) : Bool :=
  bs.length != 9 || bs.getLast?.all (fun b => decide (b < 32#8))

/-- The byte strings that encode an instruction. -/
def wellFormedBytes (bs : List Byte) : Bool :=
  encodingLengthOk bs && commandBytesOk bs && transactionBytesOk bs

end Sys2Proof
end

