-- ==== Sys2Proof/Certificates/Slice0/Obligations.lean ====
section
/-! DEFINITION. The statements about the machine, each from the numbered rules of the spec. -/

open Sys2Proof Sys2Proof.Machine

/-! ## Encodings (30_encoding.md) -/

/-- R81, R82, R83: decoding the bytes of an instruction gives the instruction back, with every operand at every value. -/
def Obligations.DecodeOfEncodeIsIdentity : Prop :=
  ∀ i : Instr, i.wellFormed = true ∧ wellFormedBytes (encode i) = true ∧ decode (encode i) = .ok i

/-- R80, R85: the decoder accepts exactly the well-formed byte strings: nine bytes with 69 significant bits, or eight
bytes of a legal command word. That anything else is refused by name is the model's choice (log entries 7 and 16). -/
def Obligations.DecodeAcceptsExactlyWellFormed : Prop :=
  ∀ bs : List Byte, (∃ i, decode bs = .ok i) ↔ wellFormedBytes bs = true

/-- R81, R83, R85: the other direction: the instruction a word decodes to is encoded as that word, but for the data field
of a read, which is ignored; and a command word is illegal exactly when it is greater than 5. -/
def Obligations.EncodeOfDecodeGivesTheWord : Prop :=
  (∀ b : BitVec 69, encodeWord (decodeBus b) = .bus (if busWe b then b else busWord false (busIdx b) 0#64)) ∧
  (∀ w : Word, ∀ i, decodeCmd w = some i → encodeWord i = .cmd w) ∧
  (∀ w : Word, decodeCmd w = none ↔ 5#64 < w)

/-- R81, R83: words written out from the encoding tables decode to the instructions they stand for. -/
def Obligations.WrittenOutWordsDecode : Prop :=
  decodeTableWord 64 0x1 = some .encA ∧
  decodeTableWord 64 0x5 = some .xfrmB ∧
  decodeTableWord 64 0x6 = none ∧
  decodeTableWord 72 0x13FEDCBA9876543210 = some (.wrKey3 0xFEDCBA9876543210#64) ∧
  decodeTableWord 72 0x178000000000000003 = some (.wrCmd 0x8000000000000003#64) ∧
  decodeTableWord 72 0x1F0000000000000001 = some (.wrR15 0x1#64) ∧
  decodeTableWord 72 0x050000000000000000 = some .rdBlk1 ∧
  decodeTableWord 72 0x080000000000000000 = some .rdStatus

/-- R52, R62, R81, R190: a scripted host transaction is taken off the script and the step is exec of the instruction its 69
bits decode to; a scripted engine turn is the engine's step, a scripted reset the reset. That the events of a run stand in a
script, that a machine with nothing scripted gives the engine the turn, and that a reset leaves the rest of the script and
the words read, is the model's choice (log entries 1, 3 and 9). -/
def Obligations.StepRunsTheDecodedInstruction : Prop :=
  ∀ (s : State) (rest : List Event),
    (∀ bus, s.script = .host bus :: rest → step s = exec (decodeBus bus) { s with script := rest }) ∧
    (s.script = .engine :: rest → step s = engineTurn { s with script := rest }) ∧
    (s.script = .reset :: rest → step s = .next { s with core := State.reset.core, script := rest }) ∧
    (s.script = [] → step s = engineTurn s)

/-- R80, R81, R82: a table word placed by withFetchWord is run by the next step as the instruction it decodes to, in
either format: a command word reaches its own meaning through `WR CMD` (log entry 6). -/
def Obligations.FetchedTableWordRuns : Prop :=
  ∀ (s : State) (nbits w : Nat) (i : Instr), nbits = 64 ∨ nbits = 72 → decodeTableWord nbits w = some i →
    step (s.withFetchWord nbits w) = exec i s

/-! ## Arithmetic and constants (00_scope.md) -/

/-- R8: every operation is modulo 2^64 and total; the right shift is logical. -/
def Obligations.ArithmeticIsModular : Prop :=
  ∀ (a b : Word) (n : Nat), n ≤ 63 →
    (add64 a b).toNat = (a.toNat + b.toNat) % 2 ^ 64 ∧
    (sub64 a b).toNat = (a.toNat + (2 ^ 64 - b.toNat)) % 2 ^ 64 ∧
    (mul64 a b).toNat = (a.toNat * b.toNat) % 2 ^ 64 ∧
    (shl64 a n).toNat = (a.toNat * 2 ^ n) % 2 ^ 64 ∧
    (shr64 a n).toNat = a.toNat / 2 ^ n ∧
    (∀ i, i < 64 → (xor64 a b).getLsbD i = Bool.xor (a.getLsbD i) (b.getLsbD i)) ∧
    (slice2 a 0).toNat = a.toNat % 4

/-- R6: the constants derived from the two DELTA values; `2^61` is the least positive `p` with `DELTA_B * p = 0`. -/
def Obligations.DerivedConstants : Prop :=
  Config.sum64A = 0x8DDE6E5FD29F0540#64 ∧
  Config.sum64B = 0xF4963E3CC8431A00#64 ∧
  Config.deltaA.getLsbD 0 = true ∧
  2 ^ 3 ∣ Config.deltaB.toNat ∧ ¬ 2 ^ 4 ∣ Config.deltaB.toNat ∧
  mul64 Config.deltaB (BitVec.ofNat 64 Config.periodB) = 0#64 ∧
  ∀ p : Nat, 0 < p → p < Config.periodB → mul64 Config.deltaB (BitVec.ofNat 64 p) ≠ 0#64

/-- R9: the signed reading of `ROUNDS`, its three facts, and its negation modulo 2^64. -/
def Obligations.SignedCountReading : Prop :=
  ∀ r : Word,
    sint64 r = r.toInt ∧
    (0 < sint64 r ↔ r.msb = false ∧ r ≠ 0#64) ∧
    (sint64 r < 0 ↔ r.msb = true) ∧
    (sint64 r = 0 ↔ r = 0#64) ∧
    neg64 r = BitVec.ofInt 64 (-(sint64 r)) ∧
    neg64 0x8000000000000000#64 = 0x8000000000000000#64

/-- R21, R22, R59: `K[i]` and the two halves are slices of the wide registers, and the key word of a half-round is
selected by `SUM[1:0]`, `SUM[24:23]` or `SUM[12:11]`. -/
def Obligations.KeyScheduleSelectsSlices : Prop :=
  (∀ (k : Key) (sel : BitVec 2), k.word sel = k.bits.extractLsb' (64 * sel.toNat) 64) ∧
  (∀ b : Block, b.v0 = b.bits.extractLsb' 0 64 ∧ b.v1 = b.bits.extractLsb' 64 64) ∧
  (∀ (k : Key) (sum : Word),
    keyV0 k sum = k.word (BitVec.ofNat 2 (sum.toNat % 4)) ∧
    keyV1A k sum = k.word (BitVec.ofNat 2 (sum.toNat / 2 ^ 23 % 4)) ∧
    keyV1B k sum = k.word (BitVec.ofNat 2 (sum.toNat / 2 ^ 11 % 4)))

/-! ## The round functions (40_variant_a.md, 41_variant_b.md) -/

/-- R100: `FA` and its four corner cases. -/
def Obligations.MixingFunctionA : Prop :=
  (∀ x : Word, (mixA x).toNat = ((((x.toNat * 2 ^ 14) % 2 ^ 64) ^^^ (x.toNat / 2 ^ 15)) + x.toNat) % 2 ^ 64) ∧
  mixA 0#64 = 0#64 ∧
  mixA 1#64 = 0x0000000000004001#64 ∧
  mixA 0x8000000000000000#64 = 0x8001000000000000#64 ∧
  mixA 0xFFFFFFFFFFFFFFFF#64 = 0xFFFE000000003FFE#64

/-- R120: `GB` and its five corner cases. -/
def Obligations.MixingFunctionB : Prop :=
  (∀ x s kw : Word, (mixB x s kw).toNat =
    ((((x.toNat * 2 ^ 4) % 2 ^ 64) ^^^ (x.toNat / 2 ^ 5)) + (x.toNat ^^^ s.toNat) + kw.toNat) % 2 ^ 64) ∧
  mixB 0#64 0#64 0#64 = 0#64 ∧
  mixB 1#64 0#64 0#64 = 0x0000000000000011#64 ∧
  mixB 0#64 0#64 1#64 = 1#64 ∧
  mixB 0xFFFFFFFFFFFFFFFF#64 0xFFFFFFFFFFFFFFFF#64 0xFFFFFFFFFFFFFFFF#64 = 0xF80000000000000E#64 ∧
  mixB 0x8000000000000000#64 0x8000000000000000#64 0x8000000000000000#64 = 0x8400000000000000#64

/-- R102, R103: `FwdA` and `InvA` written out on bits, and each undoes the other. That they undo each other is R103's
own inference (`[derived: ...]`), so the basis is derived. -/
def Obligations.DoubleRoundsAComputeAndInvert : Prop :=
  ∀ (k : Key) (r : Rnd),
    (let f : Word → Word := fun x => ((x <<< 14) ^^^ (x >>> 15)) + x
     let v0 := r.v0 + (f r.v1 ^^^ (r.sum + k.word (r.sum.extractLsb' 0 2)))
     let sum := r.sum + 0x9E3779B97F4A7C15#64
     let v1 := r.v1 + (f v0 ^^^ (sum + k.word (sum.extractLsb' 23 2)))
     fwdA k r = { v0 := v0, v1 := v1, sum := sum }) ∧
    (let f : Word → Word := fun x => ((x <<< 14) ^^^ (x >>> 15)) + x
     let v1 := r.v1 - (f r.v0 ^^^ (r.sum + k.word (r.sum.extractLsb' 23 2)))
     let sum := r.sum - 0x9E3779B97F4A7C15#64
     let v0 := r.v0 - (f v1 ^^^ (sum + k.word (sum.extractLsb' 0 2)))
     invA k r = { v0 := v0, v1 := v1, sum := sum }) ∧
    invA k (fwdA k r) = r ∧ fwdA k (invA k r) = r

/-- R122, R123: `FwdB` and `InvB` written out on bits, and each undoes the other. That they undo each other is R123's
own inference (`[derived: as for ... R103]`), so the basis is derived. -/
def Obligations.DoubleRoundsBComputeAndInvert : Prop :=
  ∀ (k : Key) (r : Rnd),
    (let g : Word → Word → Word → Word := fun x s kw => ((x <<< 4) ^^^ (x >>> 5)) + (x ^^^ s) + kw
     let v0 := r.v0 + g r.v1 r.sum (k.word (r.sum.extractLsb' 0 2))
     let sum := r.sum + 0x0FD258F8F3210C68#64
     let v1 := r.v1 + g v0 sum (k.word (sum.extractLsb' 11 2))
     fwdB k r = { v0 := v0, v1 := v1, sum := sum }) ∧
    (let g : Word → Word → Word → Word := fun x s kw => ((x <<< 4) ^^^ (x >>> 5)) + (x ^^^ s) + kw
     let v1 := r.v1 - g r.v0 r.sum (k.word (r.sum.extractLsb' 11 2))
     let sum := r.sum - 0x0FD258F8F3210C68#64
     let v0 := r.v0 - g v1 sum (k.word (sum.extractLsb' 0 2))
     invB k r = { v0 := v0, v1 := v1, sum := sum }) ∧
    invB k (fwdB k r) = r ∧ fwdB k (invB k r) = r

/-- R108: decryption undoes encryption and the other way round, so for a fixed key encryption is a permutation of the
blocks. -/
def Obligations.VariantARoundTrip : Prop :=
  ∀ k : Key,
    (∀ b : Block, decryptA k (encryptA k b) = b ∧ encryptA k (decryptA k b) = b) ∧
    Function.Bijective (encryptA k)

/-- R130: a count and its negation undo each other, for every count but `-2^63`, whose transform is the identity; they have
the same effective count. -/
def Obligations.VariantBRoundTrip : Prop :=
  ∀ (k : Key) (b : Block),
    (∀ r : Word, r ≠ 0x8000000000000000#64 → transformB k (transformB k b r) (neg64 r) = b) ∧
    (∀ r : Word, effectiveCount (neg64 r) = effectiveCount r) ∧
    transformB k b 0x8000000000000000#64 = b ∧
    transformB k (transformB k b 64#64) (neg64 64#64) = b

/-- R129: a Variant B transform performs `m mod 2^61` double-rounds, `m` the magnitude of the count, forward from `SUM = 0`
or backward from `DELTA_B` times that number; for `|N| < 2^61` that is `|N|`. -/
def Obligations.EffectiveCountOfTransform : Prop :=
  ∀ (k : Key) (b : Block) (r : Word),
    transformB k b r =
      (if r.msb then
        (Nat.iterate (invB k) (effectiveCount r)
          { v0 := b.v0, v1 := b.v1, sum := mul64 Config.deltaB (BitVec.ofNat 64 (effectiveCount r)) }).block
      else
        (Nat.iterate (fwdB k) (effectiveCount r) { v0 := b.v0, v1 := b.v1, sum := 0#64 }).block) ∧
    ((sint64 r).natAbs < 2 ^ 61 → effectiveCount r = (sint64 r).natAbs)

/-- 95_test_vectors.md section 1: the source's six vectors, both ways. -/
def Obligations.SourceVectors : Prop :=
  let k : Key := { k0 := 0#64, k1 := 0#64, k2 := 0#64, k3 := 1#64 }
  let p00 : Block := { v0 := 0#64, v1 := 0#64 }
  let p01 : Block := { v0 := 0#64, v1 := 1#64 }
  let p11 : Block := { v0 := 1#64, v1 := 1#64 }
  let s1 : Block := { v0 := 0x03D122C7D2E59E74#64, v1 := 0x01EBD4C571CBF328#64 }
  let s2 : Block := { v0 := 0x5A569C159FA954C8#64, v1 := 0x58C5CD4DF3FF55A8#64 }
  let s3 : Block := { v0 := 0xBE92F7F5F3B72CAF#64, v1 := 0x2F76CDFE46A46186#64 }
  let s4 : Block := { v0 := 0x8E2D46878AC343A8#64, v1 := 0xBA2FF090957266F8#64 }
  let s5 : Block := { v0 := 0x81451EF8405B4713#64, v1 := 0x7D214E62CD51A1AB#64 }
  let s6 : Block := { v0 := 0xE2B628D85E1DB91B#64, v1 := 0x305517897DA89FC3#64 }
  encryptA k p00 = s1 ∧ encryptA k p01 = s2 ∧ encryptA k p11 = s3 ∧
  decryptA k s1 = p00 ∧ decryptA k s2 = p01 ∧ decryptA k s3 = p11 ∧
  transformB k p00 64#64 = s4 ∧ transformB k p01 64#64 = s5 ∧ transformB k p11 64#64 = s6 ∧
  transformB k s4 (neg64 64#64) = p00 ∧ transformB k s5 (neg64 64#64) = p01 ∧ transformB k s6 (neg64 64#64) = p11

/-- R109: in Variant A the counter and a sum-equality test agree: `DELTA_A * j = SUM64_A` only at `j = 64`, so a running
`ENC_A` has `SUM = SUM64_A` exactly when `CNT = 0`, and a running `DEC_A` has `SUM = 0` exactly when `CNT = 0`. -/
def Obligations.CounterAgreesWithSumTest : Prop :=
  (∀ j : Word, mul64 Config.deltaA j = Config.sum64A ↔ j = 64#64) ∧
  ∀ c : CoreState, c.Inv → c.busy = true →
    (c.opr = 1#4 → (c.sum = Config.sum64A ↔ c.cnt = 0#7)) ∧
    (c.opr = 2#4 → (c.sum = 0#64 ↔ c.cnt = 0#7))

/-- R121: `SUM[2:0] = 0` throughout a Variant B command, so the `V0` half-round uses `K[0]`, forward (with `SUM`) and inverse
(with `SUM - DELTA_B`). -/
def Obligations.VariantBFirstHalfUsesKeyZero : Prop :=
  ∀ c : CoreState, c.Inv → c.busy = true → isVariantB c.opr = true →
    c.sum.toNat % 8 = 0 ∧
    keyV0 c.key c.sum = c.key.k0 ∧
    keyV0 c.key (sub64 c.sum Config.deltaB) = c.key.k0

/-! ## Commands (40, 41, 42) -/

/-- R150: `NOP`, command word 0, transaction `1:7:0`, changes no state at all while idle; while busy it is dropped with
error 2. -/
def Obligations.NopDoesNothingWhileIdle : Prop :=
  decodeCmd 0#64 = some .nop ∧ decodeBus (busWord true 7#4 0#64) = .wrCmd 0#64 ∧
  ∀ s : State,
    (s.core.busy = false → exec .nop s = .next s ∧ exec (.wrCmd 0#64) s = .next s) ∧
    (s.core.busy = true →
      exec .nop s = .next { s with core := recordErr 2#2 s.core } ∧
      exec (.wrCmd 0#64) s = .next { s with core := recordErr 2#2 s.core })

/-- R104, R105: `ENC_A` and `DEC_A` are accepted while idle, whatever the flags, with their start values; nothing else
changes. As words written to `CMD` they do the same. -/
def Obligations.VariantACommandsAccepted : Prop :=
  ∀ s : State, s.core.busy = false →
    let enc : State := { s with core := { s.core with
      opr := 1#4, dir := false, sum := 0#64, cnt := 64#7, limit := 0#64, busy := true, done := false } }
    let dec : State := { s with core := { s.core with
      opr := 2#4, dir := true, sum := 0x8DDE6E5FD29F0540#64, cnt := 64#7, limit := 0#64, busy := true, done := false } }
    exec .encA s = .next enc ∧ exec (.wrCmd 1#64) s = .next enc ∧
    exec .decA s = .next dec ∧ exec (.wrCmd 2#64) s = .next dec

/-- R125, R126: `ENC_B` and `DEC_B` are accepted while idle with their start values; nothing else changes. -/
def Obligations.VariantBWrappersAccepted : Prop :=
  ∀ s : State, s.core.busy = false →
    let enc : State := { s with core := { s.core with
      opr := 3#4, dir := false, sum := 0#64, limit := 0xF4963E3CC8431A00#64, cnt := 0#7, busy := true, done := false } }
    let dec : State := { s with core := { s.core with
      opr := 4#4, dir := true, sum := 0xF4963E3CC8431A00#64, limit := 0#64, cnt := 0#7, busy := true, done := false } }
    exec .encB s = .next enc ∧ exec (.wrCmd 3#64) s = .next enc ∧
    exec .decB s = .next dec ∧ exec (.wrCmd 4#64) s = .next dec

/-- R124: `XFRM_B` is accepted while idle for every count; the sign of the count chooses the direction, `SUM` and `LIMIT`. -/
def Obligations.TransformAcceptedBySign : Prop :=
  ∀ s : State, s.core.busy = false →
    let n := sint64 s.core.rounds
    let t : State := { s with core := { s.core with
      opr := 5#4, cnt := 0#7, busy := true, done := false,
      dir := decide (n < 0),
      sum := if n < 0 then BitVec.ofInt 64 (Config.deltaB.toNat * -n) else 0#64,
      limit := if 0 < n then BitVec.ofInt 64 (Config.deltaB.toNat * n) else 0#64 } }
    exec .xfrmB s = .next t ∧ exec (.wrCmd 5#64) s = .next t

/-- R154, R85: the dispatch of a command word, checks in order: busy, illegal, then the command's own meaning. -/
def Obligations.CommandWordDispatch : Prop :=
  ∀ (s : State) (w : Word),
    (s.core.busy = true → exec (.wrCmd w) s = .next { s with core := recordErr errCmdWhileBusy s.core }) ∧
    (s.core.busy = false → 5#64 < w → exec (.wrCmd w) s = .next { s with core := recordErr errIllegalCmd s.core }) ∧
    (s.core.busy = false → ∀ i, decodeCmd w = some i → exec (.wrCmd w) s = exec i s)

/-- R173: a command presented while busy is dropped with error 2, never decoded. -/
def Obligations.CommandsDroppedWhileBusy : Prop :=
  ∀ s : State, s.core.busy = true →
    ∀ i ∈ [Instr.nop, .encA, .decA, .encB, .decB, .xfrmB],
      exec i s = .next { s with core := { s.core with err := if s.core.err = 0#2 then 2#2 else s.core.err } }

/-! ## Write transactions (42_control_and_access.md) -/

/-- R151: `WR KEYi`, encoded `1:i:w`, stores every value while idle, the other three words and all else unchanged; while
busy it is dropped with error 3. -/
def Obligations.WriteKeyWord : Prop :=
  ∀ (s : State) (w : Word),
    (decodeBus (busWord true 0#4 w) = .wrKey0 w ∧ decodeBus (busWord true 1#4 w) = .wrKey1 w ∧
      decodeBus (busWord true 2#4 w) = .wrKey2 w ∧ decodeBus (busWord true 3#4 w) = .wrKey3 w) ∧
    (s.core.busy = false →
      exec (.wrKey0 w) s = .next { s with core := { s.core with key := { s.core.key with k0 := w } } } ∧
      exec (.wrKey1 w) s = .next { s with core := { s.core with key := { s.core.key with k1 := w } } } ∧
      exec (.wrKey2 w) s = .next { s with core := { s.core with key := { s.core.key with k2 := w } } } ∧
      exec (.wrKey3 w) s = .next { s with core := { s.core with key := { s.core.key with k3 := w } } }) ∧
    (s.core.busy = true →
      ∀ i ∈ [Instr.wrKey0 w, .wrKey1 w, .wrKey2 w, .wrKey3 w],
        exec i s = .next { s with core := recordErr errDataWhileBusy s.core })

/-- R152: `WR BLK0` and `WR BLK1`, encoded `1:4:w` and `1:5:w`, store one half while idle, `DONE` and all else unchanged;
while busy they are dropped with error 3. -/
def Obligations.WriteBlockHalf : Prop :=
  ∀ (s : State) (w : Word),
    (decodeBus (busWord true 4#4 w) = .wrBlk0 w ∧ decodeBus (busWord true 5#4 w) = .wrBlk1 w) ∧
    (s.core.busy = false →
      exec (.wrBlk0 w) s = .next { s with core := { s.core with block := { s.core.block with v0 := w } } } ∧
      exec (.wrBlk1 w) s = .next { s with core := { s.core with block := { s.core.block with v1 := w } } }) ∧
    (s.core.busy = true →
      ∀ i ∈ [Instr.wrBlk0 w, .wrBlk1 w],
        exec i s = .next { s with core := recordErr errDataWhileBusy s.core })

/-- R153: `WR ROUNDS` stores every value while idle; while busy it is dropped with error 3. -/
def Obligations.WriteRounds : Prop :=
  ∀ (s : State) (w : Word),
    (s.core.busy = false → exec (.wrRounds w) s = .next { s with core := { s.core with rounds := w } }) ∧
    (s.core.busy = true → exec (.wrRounds w) s = .next { s with core := recordErr errDataWhileBusy s.core })

/-- R155: `WR STATUS`, encoded `1:8:w`, clears `DONE` and `ERR` whatever its data, idle or busy, and changes nothing else. -/
def Obligations.WriteStatusClearsFlags : Prop :=
  ∀ (s : State) (w : Word),
    decodeBus (busWord true 8#4 w) = .wrStatus w ∧
    exec (.wrStatus w) s = .next { s with core := { s.core with done := false, err := 0#2 } }

/-- R156: a write to a reserved index, encoded `1:idx:w`, has no effect on any state, idle or busy, and records no error. -/
def Obligations.WriteReservedHasNoEffect : Prop :=
  ∀ (s : State) (w : Word),
    (decodeBus (busWord true 9#4 w) = .wrR9 w ∧ decodeBus (busWord true 10#4 w) = .wrR10 w ∧
      decodeBus (busWord true 11#4 w) = .wrR11 w ∧ decodeBus (busWord true 12#4 w) = .wrR12 w ∧
      decodeBus (busWord true 13#4 w) = .wrR13 w ∧ decodeBus (busWord true 14#4 w) = .wrR14 w ∧
      decodeBus (busWord true 15#4 w) = .wrR15 w) ∧
    exec (.wrR9 w) s = .next s ∧ exec (.wrR10 w) s = .next s ∧ exec (.wrR11 w) s = .next s ∧
    exec (.wrR12 w) s = .next s ∧ exec (.wrR13 w) s = .next s ∧ exec (.wrR14 w) s = .next s ∧
    exec (.wrR15 w) s = .next s

/-! ## Read transactions (42_control_and_access.md). The word returned stands at the head of `reads`, the model's own
field (log entry 2). -/

/-- R157: `RD KEYi` returns `K[i]` and changes nothing. -/
def Obligations.ReadKeyWord : Prop :=
  ∀ s : State,
    exec .rdKey0 s = .next { s with reads := s.core.key.k0 :: s.reads } ∧
    exec .rdKey1 s = .next { s with reads := s.core.key.k1 :: s.reads } ∧
    exec .rdKey2 s = .next { s with reads := s.core.key.k2 :: s.reads } ∧
    exec .rdKey3 s = .next { s with reads := s.core.key.k3 :: s.reads }

/-- R158, R159: `RD BLK0`, `RD BLK1` and `RD ROUNDS` return the current content of the register, idle or busy, and change
nothing. -/
def Obligations.ReadBlockAndRounds : Prop :=
  ∀ s : State,
    exec .rdBlk0 s = .next { s with reads := s.core.block.v0 :: s.reads } ∧
    exec .rdBlk1 s = .next { s with reads := s.core.block.v1 :: s.reads } ∧
    exec .rdRounds s = .next { s with reads := s.core.rounds :: s.reads }

/-- R160, R161: `RD CMD` returns `OPR` zero-extended and `RD STATUS` returns `BUSY + 2 * DONE + 4 * ERR`; neither changes
anything. -/
def Obligations.ReadCommandAndStatus : Prop :=
  ∀ s : State, ∃ c st : Word,
    c.toNat = s.core.opr.toNat ∧
    st.toNat = s.core.busy.toNat + 2 * s.core.done.toNat + 4 * s.core.err.toNat ∧
    exec .rdCmd s = .next { s with reads := c :: s.reads } ∧
    exec .rdStatus s = .next { s with reads := st :: s.reads }

/-- R162: a read of a reserved index returns 0 and changes nothing. -/
def Obligations.ReadReservedReturnsZero : Prop :=
  ∀ s : State,
    let t : State := { s with reads := 0#64 :: s.reads }
    exec .rdR9 s = .next t ∧ exec .rdR10 s = .next t ∧ exec .rdR11 s = .next t ∧ exec .rdR12 s = .next t ∧
    exec .rdR13 s = .next t ∧ exec .rdR14 s = .next t ∧ exec .rdR15 s = .next t

/-- R58, R52: over all instructions: a read changes no state of the core and returns one word; no other instruction
returns a word; none touches the host's script. -/
def Obligations.ReadsChangeNoState : Prop :=
  ∀ (i : Instr) (s t : State), exec i s = .next t →
    t.script = s.script ∧
    (i.isRead = true → t.core = s.core ∧ ∃ w, t.reads = w :: s.reads) ∧
    (i.isRead = false → t.reads = s.reads)

/-! ## Errors and the busy rules (60_exceptions.md) -/

/-- R172: `record_err` sets `ERR` if it is 0, does nothing otherwise, and changes no other state. -/
def Obligations.FirstErrorWins : Prop :=
  ∀ (code : BitVec 2) (c : CoreState),
    (c.err = 0#2 → recordErr code c = { c with err := code }) ∧
    (c.err ≠ 0#2 → recordErr code c = c)

/-- R172, R31, R201: over all steps: once `ERR` is not 0 it keeps its value, but for a write to `STATUS` or a reset, which
make it 0. -/
def Obligations.ErrorKeptUntilAcknowledged : Prop :=
  ∀ s t : State, step s = .next t → s.core.err ≠ 0#2 →
    t.core.err = s.core.err ∨
    (t.core.err = 0#2 ∧ ∃ e rest, s.script = e :: rest ∧ e.clearsErr)

/-- R174, R195: over all instructions: while a command runs, no host transaction changes anything of the core but `DONE`
and `ERR`, and only a write to `STATUS` changes `DONE`. -/
def Obligations.BusyCoreIgnoresTheHost : Prop :=
  ∀ (i : Instr) (s t : State), s.core.busy = true → exec i s = .next t →
    t.core = { s.core with done := t.core.done, err := t.core.err } ∧
    ((∀ w, i ≠ .wrStatus w) → t.core.done = s.core.done)

/-- R63 (b), R164: over all steps: while `BUSY = 1` no step but a reset changes `KEY`, `ROUNDS` or `OPR`. -/
def Obligations.OperandsFixedWhileBusy : Prop :=
  ∀ s t : State, s.core.busy = true → step s = .next t →
    (t.core.key = s.core.key ∧ t.core.rounds = s.core.rounds ∧ t.core.opr = s.core.opr) ∨
    (∃ e rest, s.script = e :: rest ∧ e.isReset = true)

/-- R21, R20: over all steps: `KEY` changes only by a host write to a key word while idle, or by a reset. -/
def Obligations.KeyChangedOnlyByKeyWrites : Prop :=
  ∀ s t : State, step s = .next t → t.core.key ≠ s.core.key →
    ∃ e rest, s.script = e :: rest ∧ e.writesKey ∧ (s.core.busy = false ∨ e.isReset = true)

/-! ## The engine (R106, R127, R163) -/

/-- R106, R163: the engine's step of a Variant A command: completion when `CNT = 0`, else one double-round in the direction
of `DIR` and `CNT - 1`; everything else is unchanged. -/
def Obligations.EngineStepVariantA : Prop :=
  ∀ s : State, s.core.busy = true → (s.core.opr = 1#4 ∨ s.core.opr = 2#4) →
    (s.core.cnt = 0#7 → engineTurn s = .next { s with core := { s.core with
      busy := false, done := true, sum := 0#64, limit := 0#64, cnt := 0#7, dir := false } }) ∧
    (s.core.cnt ≠ 0#7 →
      let before : Rnd := { v0 := s.core.block.v0, v1 := s.core.block.v1, sum := s.core.sum }
      let after : Rnd := if s.core.dir then invA s.core.key before else fwdA s.core.key before
      engineTurn s = .next { s with core := { s.core with
        block := { v0 := after.v0, v1 := after.v1 }, sum := after.sum, cnt := s.core.cnt - 1#7 } })

/-- R127, R163: the engine's step of a Variant B command: completion when `SUM = LIMIT`, else one double-round in the
direction of `DIR`; everything else, `CNT` included, is unchanged. -/
def Obligations.EngineStepVariantB : Prop :=
  ∀ s : State, s.core.busy = true → (s.core.opr = 3#4 ∨ s.core.opr = 4#4 ∨ s.core.opr = 5#4) →
    (s.core.sum = s.core.limit → engineTurn s = .next { s with core := { s.core with
      busy := false, done := true, sum := 0#64, limit := 0#64, cnt := 0#7, dir := false } }) ∧
    (s.core.sum ≠ s.core.limit →
      let before : Rnd := { v0 := s.core.block.v0, v1 := s.core.block.v1, sum := s.core.sum }
      let after : Rnd := if s.core.dir then invB s.core.key before else fwdB s.core.key before
      engineTurn s = .next { s with core := { s.core with
        block := { v0 := after.v0, v1 := after.v1 }, sum := after.sum } })

/-- R163, R37, R63 (c): an idle core stays as it is until the host writes or a reset comes: over any stretch of engine
turns and host reads, whatever their number. -/
def Obligations.IdleCoreIsStable : Prop :=
  ∀ (s : State) (es rest : List Event), s.core.busy = false → s.script = es ++ rest → ReadsAndEngine es →
    ∃ t, run es.length s = .next t ∧ t.core = s.core ∧ t.script = rest

/-- R67: a clock cycle without reset is the host's transaction, if any, followed by the engine's step if `BUSY` was 1 before
the edge; the cycle of an accept has no engine step. -/
def Obligations.ClockCycleIsHostThenEngine : Prop :=
  ∀ (s : State) (p : Pins) (rest : List Event), p.rst = false →
    let cycle := step { s with script := .clock p :: rest }
    let bus := busWord p.we p.idx p.wdata
    (p.sel = true → s.core.busy = true →
      cycle = run 2 { s with script := .host bus :: .engine :: rest }) ∧
    (p.sel = true → s.core.busy = false → cycle = step { s with script := .host bus :: rest }) ∧
    (p.sel = false → s.core.busy = true → cycle = step { s with script := .engine :: rest }) ∧
    (p.sel = false → s.core.busy = false → cycle = .next { s with script := rest })

/-! ## Reset and the invariant (70_reset_and_hazards.md, 10_state.md) -/

/-- R190, R191: a reset makes all 592 bits 0 in every state, busy or idle, whatever transaction its cycle carries; after
it every index reads 0. What the host still plans and has read stays (the model's choice, log entry 9); so a read in a cycle
with `rst = 1` returns no word (the model's reading of R190 beside R51, log entry 10). -/
def Obligations.ResetClearsEveryElement : Prop :=
  (∀ (s : State) (p : Pins) (rest : List Event), p.rst = true →
    step { s with script := .reset :: rest } = .next { s with core := State.reset.core, script := rest } ∧
    step { s with script := .clock p :: rest } = .next { s with core := State.reset.core, script := rest }) ∧
  State.reset.core.key.bits = 0#256 ∧ State.reset.core.block.bits = 0#128 ∧
  State.reset.core.rounds = 0#64 ∧ State.reset.core.sum = 0#64 ∧ State.reset.core.limit = 0#64 ∧
  State.reset.core.cnt = 0#7 ∧ State.reset.core.dir = false ∧ State.reset.core.opr = 0#4 ∧
  State.reset.core.busy = false ∧ State.reset.core.done = false ∧ State.reset.core.err = 0#2 ∧
  ∀ idx : BitVec 4, regRead State.reset.core idx = 0#64

/-- R20, R37: the reset state meets the invariant. -/
def Obligations.ResetMeetsTheInvariant : Prop := State.reset.core.Inv

/-- R37, R32, R26, R28, R121: every step keeps the invariant of the reachable states: an idle core has `SUM`, `LIMIT`,
`CNT` and `DIR` 0, `BUSY` and `DONE` are never both 1, `OPR` is legal, and a running command's loop state is its own. -/
def Obligations.StepKeepsTheInvariant : Prop :=
  ∀ s t : State, s.core.Inv → step s = .next t → t.core.Inv

/-- R170, R58, R80: from every state that meets the invariant the machine never stops: no transaction, engine step, reset
or clock edge faults or is refused. A run longer than its script goes on with engine turns (the model's choice, log
entry 3). -/
def Obligations.MachineNeverStops : Prop := ∀ s : State, s.core.Inv → SafeRun s

/-- R68, R132: fairness drains the engine: with nothing scripted, every reachable state is idle after at most `2^61` steps,
and after at most 65 if the command is one of Variant A. That an unscripted machine lets the engine go on is the model's
choice (log entry 3). -/
def Obligations.EveryCommandTerminates : Prop :=
  ∀ s : State, s.core.Inv → s.script = [] →
    ∃ n t, run n s = .next t ∧ t.core.busy = false ∧ n ≤ 2 ^ 61 ∧ (isVariantA s.core.opr = true → n ≤ 65)

/-! ## Whole commands (R107, R128, R164, R165, R202, R90) -/

/-- R107: from an idle core, `WR CMD` with `ENC_A` or `DEC_A` followed by 65 engine turns or more, whatever host reads are
interleaved, leaves `EncA` or `DecA` of the key and block in `BLOCK`; `OPR` and `DONE` are the only other elements with a
new value. Events in a script, and turns given to the core after it has completed, are the model's choice (log entries 1
and 4). -/
def Obligations.VariantACommandResult : Prop :=
  ∀ (s : State) (w : Word) (es rest : List Event), s.core.Inv → s.core.busy = false → (w = 1#64 ∨ w = 2#64) →
    ReadsAndEngine es → 65 ≤ engineTurns es →
    ∃ t, run (es.length + 1) { s with script := .host (scriptWr 7#4 w) :: (es ++ rest) } = .next t ∧
      t.script = rest ∧
      t.core = { s.core with
        block := if w = 1#64 then encryptA s.core.key s.core.block else decryptA s.core.key s.core.block
        opr := w.setWidth 4
        done := true }

/-- R128: from an idle core, `WR CMD` with `ENC_B`, `DEC_B` or `XFRM_B` followed by more than `N_eff` engine turns, whatever
host reads are interleaved, leaves `XfrmB` of key, block and count in `BLOCK`, the count being +64, -64 or `ROUNDS`; `OPR`
and `DONE` are the only other elements with a new value. Events in a script, and turns given to the core after it has
completed, are the model's choice (log entries 1 and 4). -/
def Obligations.VariantBCommandResult : Prop :=
  ∀ (s : State) (w : Word) (es rest : List Event), s.core.Inv → s.core.busy = false →
    (w = 3#64 ∨ w = 4#64 ∨ w = 5#64) → ReadsAndEngine es →
    let r : Word := if w = 3#64 then 64#64 else if w = 4#64 then BitVec.ofInt 64 (-64) else s.core.rounds
    effectiveCount r < engineTurns es →
    ∃ t, run (es.length + 1) { s with script := .host (scriptWr 7#4 w) :: (es ++ rest) } = .next t ∧
      t.script = rest ∧
      t.core = { s.core with
        block := transformB s.core.key s.core.block r
        opr := w.setWidth 4
        done := true }

/-- R164: whatever the host does from the accept of a cipher command to its completion step, the command's effect is the
same: `KEY` and `ROUNDS` unchanged, `BLOCK` the command's result, `OPR` its opcode, `SUM`, `LIMIT`, `CNT`, `DIR` 0, `BUSY` 0,
`DONE` 1; only `ERR` can differ. Events in a script are the model's choice (log entry 1). -/
def Obligations.CommandUndisturbedByTraffic : Prop :=
  ∀ (s : State) (w : Word) (es rest : List Event), s.core.busy = false → IsCipherCommand w →
    HostAndEngine es → engineTurns es = commandRounds w s.core →
    ∃ t, run (es.length + 2) { s with script := .host (scriptWr 7#4 w) :: (es ++ .engine :: rest) } = .next t ∧
      t.script = rest ∧
      t.core = { completedCore w s.core with err := t.core.err }

/-- R202, R194: from the accept, `BUSY` reads 1 until the engine has taken exactly its number of steps, 65 for the fixed
commands and `N_eff + 1` for `XFRM_B`, whatever the host does meanwhile. -/
def Obligations.CommandBusyUntilItsStepCount : Prop :=
  ∀ (s : State) (w : Word) (es rest : List Event), s.core.busy = false → IsCipherCommand w →
    HostAndEngine es → engineTurns es ≤ commandRounds w s.core →
    ∃ t, run (es.length + 1) { s with script := .host (scriptWr 7#4 w) :: (es ++ rest) } = .next t ∧
      t.core.busy = true ∧ t.core.done = false ∧ busyOut t.core = true ∧ doneOut t.core = false ∧
      (regRead t.core 8#4).getLsbD 0 = true

/-- R131: the zero-round transform is the identity; `XFRM_B` with `ROUNDS = 0` is accepted like any command, its first engine
step is the completion step, `BLOCK` is unchanged and `DONE` becomes 1. -/
def Obligations.ZeroCountIsTheIdentity : Prop :=
  (∀ (k : Key) (b : Block), transformB k b 0#64 = b) ∧
  ∀ s : State, s.core.busy = false → s.core.rounds = 0#64 →
    ∃ t u, exec .xfrmB s = .next t ∧ exec (.wrCmd 5#64) s = .next t ∧
      t.core.busy = true ∧ t.core.done = false ∧ t.core.err = s.core.err ∧ t.core.sum = 0#64 ∧ t.core.limit = 0#64 ∧
      t.core.block = s.core.block ∧
      engineTurn t = .next u ∧ u.core = { s.core with
        opr := 5#4, busy := false, done := true, sum := 0#64, limit := 0#64, cnt := 0#7, dir := false }

/-- R165: the result of a cipher command depends on the operands at the accept alone: two idle cores with the same `KEY`,
`BLOCK` and `ROUNDS`, whatever their other registers, given the same command and the same number of engine turns,
interleaved with any host reads, agree on everything but `ERR` at the end. Events in a script, and turns given to the core
after it has completed, are the model's choice (log entries 1 and 4). -/
def Obligations.ResultIndependentOfHistory : Prop :=
  ∀ (s₁ s₂ : State) (w : Word) (es₁ es₂ rest₁ rest₂ : List Event),
    s₁.core.busy = false → s₂.core.busy = false → s₁.core.key = s₂.core.key → s₁.core.block = s₂.core.block →
    s₁.core.rounds = s₂.core.rounds → IsCipherCommand w →
    ReadsAndEngine es₁ → ReadsAndEngine es₂ → engineTurns es₁ = engineTurns es₂ →
    ∃ t₁ t₂, run (es₁.length + 1) { s₁ with script := .host (scriptWr 7#4 w) :: (es₁ ++ rest₁) } = .next t₁ ∧
      run (es₂.length + 1) { s₂ with script := .host (scriptWr 7#4 w) :: (es₂ ++ rest₂) } = .next t₂ ∧
      t₁.core = { t₂.core with err := t₁.core.err }

/-- R90, R107: the source-level calls `encryptBlock_A(k, b)` and `decryptBlock_A(k, b)` on the clocked machine at one
transaction a cycle, from an idle core: `WAIT` takes 66 polls, 65 of them busy, and the two words read last are the halves
of `EncA(k, b)` or `DecA(k, b)`. The script, the list of the words read and the pace of `WAIT` as data are the model's
choice (log entries 1, 2 and 17). -/
def Obligations.SourceCallsVariantA : Prop :=
  ∀ (s : State) (k : Key) (b : Block) (rest : List Event), s.core.busy = false →
    let busyPoll := statusWord { s.core with busy := true, done := false }
    let lastPoll := statusWord { s.core with busy := false, done := true }
    (∃ t, run 75 { s with script := asCycles [] (encryptBlockA k b) ++ rest } = .next t ∧ t.script = rest ∧
      t.reads = [(encryptA k b).v1, (encryptA k b).v0, lastPoll] ++ List.replicate 65 busyPoll ++ s.reads) ∧
    (∃ t, run 75 { s with script := asCycles [] (decryptBlockA k b) ++ rest } = .next t ∧ t.script = rest ∧
      t.reads = [(decryptA k b).v1, (decryptA k b).v0, lastPoll] ++ List.replicate 65 busyPoll ++ s.reads)

/-- R90, R128: the source-level calls `encryptBlock_B(k, b)`, `decryptBlock_B(k, b)` and `feistelTransform(k, b, n)` on the
clocked machine at one transaction a cycle, from an idle core: `WAIT` takes two polls more than there are double-rounds, all
but the last busy, and the two words read last are the halves of `XfrmB(k, b, +64)`, `XfrmB(k, b, -64)` or `XfrmB(k, b, n)`.
The script, the list of the words read and the pace of `WAIT` as data are the model's choice (log entries 1, 2 and 17). -/
def Obligations.SourceCallsVariantB : Prop :=
  ∀ (s : State) (k : Key) (b : Block) (n : Int) (rest : List Event), s.core.busy = false →
    let busyPoll := statusWord { s.core with busy := true, done := false }
    let lastPoll := statusWord { s.core with busy := false, done := true }
    let enc := transformB k b (BitVec.ofInt 64 64)
    let dec := transformB k b (BitVec.ofInt 64 (-64))
    let r := BitVec.ofInt 64 n
    let out := transformB k b r
    (∃ t, run 75 { s with script := asCycles [] (encryptBlockB k b) ++ rest } = .next t ∧ t.script = rest ∧
      t.reads = [enc.v1, enc.v0, lastPoll] ++ List.replicate 65 busyPoll ++ s.reads) ∧
    (∃ t, run 75 { s with script := asCycles [] (decryptBlockB k b) ++ rest } = .next t ∧ t.script = rest ∧
      t.reads = [dec.v1, dec.v0, lastPoll] ++ List.replicate 65 busyPoll ++ s.reads) ∧
    (∃ t, run (effectiveCount r + 12) { s with
        script := asCycles [] (feistelTransform k b n) ++ rest } = .next t ∧ t.script = rest ∧
      t.reads = [out.v1, out.v0, lastPoll] ++ List.replicate (effectiveCount r + 1) busyPoll ++ s.reads)

/-- R90, R161, R67: `WAIT` is `RD STATUS`, and itself again as long as the word read has bit 0 equal to 1; in the clocked
refinement each poll is a cycle that carries `RD STATUS`. That it stands in the script as one event, with the engine turns
or cycles between its polls as data, is the model's choice (log entries 1, 2 and 17). -/
def Obligations.WaitRepeatsWhileBusy : Prop :=
  ∀ (s : State) (gaps : List Nat) (rest : List Event),
    let read (script : List Event) : State := { s with script := script, reads := statusWord s.core :: s.reads }
    let again := List.replicate (gaps.headD 1) Event.engine ++ .wait gaps.tail :: rest
    let againCycles := List.replicate (gaps.headD 0) (Event.clock idlePins) ++ .waitCycles gaps.tail :: rest
    let poll : Pins := { rst := false, sel := true, we := false, idx := 8#4, wdata := 0#64 }
    (readsBusy (statusWord s.core) = true →
      step { s with script := .wait gaps :: rest } = .next (read again) ∧
      step { s with script := .waitCycles gaps :: rest } = step { s with script := .clock poll :: againCycles } ∧
      step { s with script := .clock poll :: againCycles } = engineTurn (read againCycles)) ∧
    (readsBusy (statusWord s.core) = false →
      step { s with script := .wait gaps :: rest } = .next (read rest) ∧
      step { s with script := .waitCycles gaps :: rest } = .next (read rest))

/-- R90, R107, R128, R63 (d): run from an idle core, each of the five source-level calls returns exactly the value of the
source's function, however the host's lines and polls are interleaved with the engine's turns, and in the clocked refinement
however many cycles pass between them; its `WAIT` ends by itself. The script, the list of the words read and the
interleaving as data are the model's choice (log entries 1, 2, 4 and 17). -/
def Obligations.SourceCallsUnderEveryInterleaving : Prop :=
  ∀ (s : State) (k : Key) (b : Block) (n : Int) (paces : List Pace), s.core.busy = false →
    ∀ call ∈ [(encryptBlockA k b, encryptA k b), (decryptBlockA k b, decryptA k b),
        (encryptBlockB k b, transformB k b (BitVec.ofInt 64 64)),
        (decryptBlockB k b, transformB k b (BitVec.ofInt 64 (-64))),
        (feistelTransform k b n, transformB k b (BitVec.ofInt 64 n))],
      CallReturns s (asTransactions paces call.1) call.2 ∧ CallReturns s (asCycles paces call.1) call.2
end

