-- ==== Sys2Proof/Laws/Encoding.lean ====
section
/-! SUPPORT. The two formats as bit fields and as bytes: the fields of a transaction are its parts (R81), a transaction is
its fields, and bytes hold the number they were made from (R56). -/

namespace Sys2Proof

@[simp] theorem busWe_busWord (we : Bool) (idx : BitVec 4) (w : Word) : busWe (busWord we idx w) = we := by
  simp only [busWe, busWord, BitVec.getLsbD_append]
  simp

@[simp] theorem busIdx_busWord (we : Bool) (idx : BitVec 4) (w : Word) : busIdx (busWord we idx w) = idx := by
  apply BitVec.eq_of_getLsbD_eq
  intro j hj
  simp only [busIdx, busWord, BitVec.getLsbD_extractLsb', BitVec.getLsbD_append]
  simp [hj]

@[simp] theorem busData_busWord (we : Bool) (idx : BitVec 4) (w : Word) : busData (busWord we idx w) = w := by
  apply BitVec.eq_of_getLsbD_eq
  intro j hj
  simp only [busData, busWord, BitVec.getLsbD_extractLsb', BitVec.getLsbD_append]
  simp [hj]

/-- R81: a transaction is its three fields and nothing else. -/
theorem busWord_fields (b : BitVec 69) : busWord (busWe b) (busIdx b) (busData b) = b := by
  apply BitVec.eq_of_getLsbD_eq
  intro j hj
  simp only [busWord, busWe, busIdx, busData, BitVec.getLsbD_append]
  by_cases h : j < 64
  · simp [h]
  · by_cases h' : j < 68
    · have : j - 64 < 4 := by omega
      simp only [h, this, BitVec.getLsbD_extractLsb', if_false, decide_true, Bool.true_and, if_true]
      congr 1
      omega
    · obtain rfl : j = 68 := by omega
      simp

@[simp] theorem decodeBus_write (idx : BitVec 4) (w : Word) : decodeBus (busWord true idx w) = decodeWrite idx w := by
  simp [decodeBus]

@[simp] theorem decodeBus_read (idx : BitVec 4) (w : Word) : decodeBus (busWord false idx w) = decodeRead idx := by
  simp [decodeBus]

/-- R81: the encoder on the write rows. -/
theorem encodeWord_decodeWrite (idx : BitVec 4) (w : Word) :
    encodeWord (decodeWrite idx w) = .bus (busWord true idx w) := by
  obtain ⟨n, rfl⟩ : ∃ n : Fin 16, idx = BitVec.ofFin n := ⟨idx.toFin, rfl⟩
  fin_cases n <;> rfl

/-- R81: the encoder on the read rows. -/
theorem encodeWord_decodeRead (idx : BitVec 4) : encodeWord (decodeRead idx) = .bus (busWord false idx 0#64) := by
  obtain ⟨n, rfl⟩ : ∃ n : Fin 16, idx = BitVec.ofFin n := ⟨idx.toFin, rfl⟩
  fin_cases n <;> rfl

@[simp] theorem toBytes_length (n v : Nat) : (toBytes n v).length = n := by
  induction n generalizing v with
  | zero => rfl
  | succ n ih => simp [toBytes, ih]

@[simp] theorem fromBytes_toBytes (n v : Nat) : fromBytes (toBytes n v) = v % 256 ^ n := by
  induction n generalizing v with
  | zero => simp [toBytes, fromBytes, Nat.mod_one]
  | succ n ih =>
    simp only [toBytes, fromBytes, ih, BitVec.toNat_ofNat]
    rw [show 256 ^ (n + 1) = 256 * 256 ^ n by rw [pow_succ, mul_comm], Nat.mod_mul]

/-- R85: a command word has an instruction exactly when it is at most 5. -/
theorem decodeCmd_isSome (w : Word) : (decodeCmd w).isSome = decide (w ≤ 5#64) := by
  unfold decodeCmd
  split <;> simp_all only [Option.isSome_some, Option.isSome_none]
  all_goals first
    | rfl
    | skip
  rename_i h0 h1 h2 h3 h4 h5
  simp only [← BitVec.toNat_inj, imp_false, BitVec.toNat_ofNat] at h0 h1 h2 h3 h4 h5
  symm
  simp only [BitVec.le_def, BitVec.toNat_ofNat, decide_eq_false_iff_not]
  omega

end Sys2Proof
end

