-- ==== Sys2Proof/Laws/State.lean ====
section
/-! SUPPORT. One lemma per field per update of the state: no later proof unfolds a record update. -/

namespace Sys2Proof.Machine

/-! ### The machine's four updates -/

@[simp] theorem State.withCore_core (s : State) (c : CoreState) : (s.withCore c).core = c := rfl
@[simp] theorem State.withCore_script (s : State) (c : CoreState) : (s.withCore c).script = s.script := rfl
@[simp] theorem State.withCore_reads (s : State) (c : CoreState) : (s.withCore c).reads = s.reads := rfl

@[simp] theorem State.returnWord_core (s : State) (w : Word) : (s.returnWord w).core = s.core := rfl
@[simp] theorem State.returnWord_script (s : State) (w : Word) : (s.returnWord w).script = s.script := rfl
@[simp] theorem State.returnWord_reads (s : State) (w : Word) : (s.returnWord w).reads = w :: s.reads := rfl

@[simp] theorem State.before_core (s : State) (es : List Event) : (s.before es).core = s.core := rfl
@[simp] theorem State.before_script (s : State) (es : List Event) : (s.before es).script = es ++ s.script := rfl
@[simp] theorem State.before_reads (s : State) (es : List Event) : (s.before es).reads = s.reads := rfl

@[simp] theorem State.resetCore_core (s : State) : (s.resetCore).core = CoreState.reset := rfl
@[simp] theorem State.resetCore_script (s : State) : (s.resetCore).script = s.script := rfl
@[simp] theorem State.resetCore_reads (s : State) : (s.resetCore).reads = s.reads := rfl

/-! ### Acknowledgement, accept, completion, a round's write-back -/

@[simp] theorem acknowledge_key (c : CoreState) : (acknowledge c).key = c.key := rfl
@[simp] theorem acknowledge_block (c : CoreState) : (acknowledge c).block = c.block := rfl
@[simp] theorem acknowledge_rounds (c : CoreState) : (acknowledge c).rounds = c.rounds := rfl
@[simp] theorem acknowledge_sum (c : CoreState) : (acknowledge c).sum = c.sum := rfl
@[simp] theorem acknowledge_limit (c : CoreState) : (acknowledge c).limit = c.limit := rfl
@[simp] theorem acknowledge_cnt (c : CoreState) : (acknowledge c).cnt = c.cnt := rfl
@[simp] theorem acknowledge_dir (c : CoreState) : (acknowledge c).dir = c.dir := rfl
@[simp] theorem acknowledge_opr (c : CoreState) : (acknowledge c).opr = c.opr := rfl
@[simp] theorem acknowledge_busy (c : CoreState) : (acknowledge c).busy = c.busy := rfl
@[simp] theorem acknowledge_done (c : CoreState) : (acknowledge c).done = false := rfl
@[simp] theorem acknowledge_err (c : CoreState) : (acknowledge c).err = 0#2 := rfl

@[simp] theorem accept_key (o : BitVec 4) (d : Bool) (s l : Word) (n : BitVec 7) (c : CoreState) :
    (accept o d s l n c).key = c.key := rfl
@[simp] theorem accept_block (o : BitVec 4) (d : Bool) (s l : Word) (n : BitVec 7) (c : CoreState) :
    (accept o d s l n c).block = c.block := rfl
@[simp] theorem accept_rounds (o : BitVec 4) (d : Bool) (s l : Word) (n : BitVec 7) (c : CoreState) :
    (accept o d s l n c).rounds = c.rounds := rfl
@[simp] theorem accept_sum (o : BitVec 4) (d : Bool) (s l : Word) (n : BitVec 7) (c : CoreState) :
    (accept o d s l n c).sum = s := rfl
@[simp] theorem accept_limit (o : BitVec 4) (d : Bool) (s l : Word) (n : BitVec 7) (c : CoreState) :
    (accept o d s l n c).limit = l := rfl
@[simp] theorem accept_cnt (o : BitVec 4) (d : Bool) (s l : Word) (n : BitVec 7) (c : CoreState) :
    (accept o d s l n c).cnt = n := rfl
@[simp] theorem accept_dir (o : BitVec 4) (d : Bool) (s l : Word) (n : BitVec 7) (c : CoreState) :
    (accept o d s l n c).dir = d := rfl
@[simp] theorem accept_opr (o : BitVec 4) (d : Bool) (s l : Word) (n : BitVec 7) (c : CoreState) :
    (accept o d s l n c).opr = o := rfl
@[simp] theorem accept_busy (o : BitVec 4) (d : Bool) (s l : Word) (n : BitVec 7) (c : CoreState) :
    (accept o d s l n c).busy = true := rfl
@[simp] theorem accept_done (o : BitVec 4) (d : Bool) (s l : Word) (n : BitVec 7) (c : CoreState) :
    (accept o d s l n c).done = false := rfl
@[simp] theorem accept_err (o : BitVec 4) (d : Bool) (s l : Word) (n : BitVec 7) (c : CoreState) :
    (accept o d s l n c).err = c.err := rfl

@[simp] theorem complete_key (c : CoreState) : (complete c).key = c.key := rfl
@[simp] theorem complete_block (c : CoreState) : (complete c).block = c.block := rfl
@[simp] theorem complete_rounds (c : CoreState) : (complete c).rounds = c.rounds := rfl
@[simp] theorem complete_sum (c : CoreState) : (complete c).sum = 0#64 := rfl
@[simp] theorem complete_limit (c : CoreState) : (complete c).limit = 0#64 := rfl
@[simp] theorem complete_cnt (c : CoreState) : (complete c).cnt = 0#7 := rfl
@[simp] theorem complete_dir (c : CoreState) : (complete c).dir = false := rfl
@[simp] theorem complete_opr (c : CoreState) : (complete c).opr = c.opr := rfl
@[simp] theorem complete_busy (c : CoreState) : (complete c).busy = false := rfl
@[simp] theorem complete_done (c : CoreState) : (complete c).done = true := rfl
@[simp] theorem complete_err (c : CoreState) : (complete c).err = c.err := rfl

@[simp] theorem CoreState.withRnd_key (c : CoreState) (r : Rnd) : (c.withRnd r).key = c.key := rfl
@[simp] theorem CoreState.withRnd_block (c : CoreState) (r : Rnd) : (c.withRnd r).block = r.block := rfl
@[simp] theorem CoreState.withRnd_rounds (c : CoreState) (r : Rnd) : (c.withRnd r).rounds = c.rounds := rfl
@[simp] theorem CoreState.withRnd_sum (c : CoreState) (r : Rnd) : (c.withRnd r).sum = r.sum := rfl
@[simp] theorem CoreState.withRnd_limit (c : CoreState) (r : Rnd) : (c.withRnd r).limit = c.limit := rfl
@[simp] theorem CoreState.withRnd_cnt (c : CoreState) (r : Rnd) : (c.withRnd r).cnt = c.cnt := rfl
@[simp] theorem CoreState.withRnd_dir (c : CoreState) (r : Rnd) : (c.withRnd r).dir = c.dir := rfl
@[simp] theorem CoreState.withRnd_opr (c : CoreState) (r : Rnd) : (c.withRnd r).opr = c.opr := rfl
@[simp] theorem CoreState.withRnd_busy (c : CoreState) (r : Rnd) : (c.withRnd r).busy = c.busy := rfl
@[simp] theorem CoreState.withRnd_done (c : CoreState) (r : Rnd) : (c.withRnd r).done = c.done := rfl
@[simp] theorem CoreState.withRnd_err (c : CoreState) (r : Rnd) : (c.withRnd r).err = c.err := rfl

@[simp] theorem CoreState.rnd_v0 (c : CoreState) : c.rnd.v0 = c.block.v0 := rfl
@[simp] theorem CoreState.rnd_v1 (c : CoreState) : c.rnd.v1 = c.block.v1 := rfl
@[simp] theorem CoreState.rnd_sum (c : CoreState) : c.rnd.sum = c.sum := rfl

/-! ### Recording an error changes `ERR` alone (R172) -/

@[simp] theorem recordErr_key (e : BitVec 2) (c : CoreState) : (recordErr e c).key = c.key := by
  unfold recordErr; split <;> rfl
@[simp] theorem recordErr_block (e : BitVec 2) (c : CoreState) : (recordErr e c).block = c.block := by
  unfold recordErr; split <;> rfl
@[simp] theorem recordErr_rounds (e : BitVec 2) (c : CoreState) : (recordErr e c).rounds = c.rounds := by
  unfold recordErr; split <;> rfl
@[simp] theorem recordErr_sum (e : BitVec 2) (c : CoreState) : (recordErr e c).sum = c.sum := by
  unfold recordErr; split <;> rfl
@[simp] theorem recordErr_limit (e : BitVec 2) (c : CoreState) : (recordErr e c).limit = c.limit := by
  unfold recordErr; split <;> rfl
@[simp] theorem recordErr_cnt (e : BitVec 2) (c : CoreState) : (recordErr e c).cnt = c.cnt := by
  unfold recordErr; split <;> rfl
@[simp] theorem recordErr_dir (e : BitVec 2) (c : CoreState) : (recordErr e c).dir = c.dir := by
  unfold recordErr; split <;> rfl
@[simp] theorem recordErr_opr (e : BitVec 2) (c : CoreState) : (recordErr e c).opr = c.opr := by
  unfold recordErr; split <;> rfl
@[simp] theorem recordErr_busy (e : BitVec 2) (c : CoreState) : (recordErr e c).busy = c.busy := by
  unfold recordErr; split <;> rfl
@[simp] theorem recordErr_done (e : BitVec 2) (c : CoreState) : (recordErr e c).done = c.done := by
  unfold recordErr; split <;> rfl

theorem recordErr_err (e : BitVec 2) (c : CoreState) :
    (recordErr e c).err = if c.err = 0#2 then e else c.err := by
  unfold recordErr; split <;> rfl

/-! ### Round steps -/

@[simp] theorem roundA_key (c : CoreState) : (roundA c).key = c.key := rfl
@[simp] theorem roundA_rounds (c : CoreState) : (roundA c).rounds = c.rounds := rfl
@[simp] theorem roundA_limit (c : CoreState) : (roundA c).limit = c.limit := rfl
@[simp] theorem roundA_dir (c : CoreState) : (roundA c).dir = c.dir := rfl
@[simp] theorem roundA_opr (c : CoreState) : (roundA c).opr = c.opr := rfl
@[simp] theorem roundA_busy (c : CoreState) : (roundA c).busy = c.busy := rfl
@[simp] theorem roundA_done (c : CoreState) : (roundA c).done = c.done := rfl
@[simp] theorem roundA_err (c : CoreState) : (roundA c).err = c.err := rfl
@[simp] theorem roundA_cnt (c : CoreState) : (roundA c).cnt = c.cnt - 1#7 := rfl
@[simp] theorem roundB_key (c : CoreState) : (roundB c).key = c.key := rfl
@[simp] theorem roundB_rounds (c : CoreState) : (roundB c).rounds = c.rounds := rfl
@[simp] theorem roundB_limit (c : CoreState) : (roundB c).limit = c.limit := rfl
@[simp] theorem roundB_cnt (c : CoreState) : (roundB c).cnt = c.cnt := rfl
@[simp] theorem roundB_dir (c : CoreState) : (roundB c).dir = c.dir := rfl
@[simp] theorem roundB_opr (c : CoreState) : (roundB c).opr = c.opr := rfl
@[simp] theorem roundB_busy (c : CoreState) : (roundB c).busy = c.busy := rfl
@[simp] theorem roundB_done (c : CoreState) : (roundB c).done = c.done := rfl
@[simp] theorem roundB_err (c : CoreState) : (roundB c).err = c.err := rfl

/-- R102: a forward double-round advances `SUM` by `DELTA_A` once. -/
@[simp] theorem fwdA_sum (k : Key) (r : Rnd) : (fwdA k r).sum = r.sum + Config.deltaA := rfl

/-- R103: an inverse double-round takes `DELTA_A` off `SUM` once. -/
@[simp] theorem invA_sum (k : Key) (r : Rnd) : (invA k r).sum = r.sum - Config.deltaA := rfl

/-- R122: a forward double-round advances `SUM` by `DELTA_B` once. -/
@[simp] theorem fwdB_sum (k : Key) (r : Rnd) : (fwdB k r).sum = r.sum + Config.deltaB := rfl

/-- R123: an inverse double-round takes `DELTA_B` off `SUM` once. -/
@[simp] theorem invB_sum (k : Key) (r : Rnd) : (invB k r).sum = r.sum - Config.deltaB := rfl

theorem roundA_sum (c : CoreState) :
    (roundA c).sum = if c.dir then c.sum - Config.deltaA else c.sum + Config.deltaA := by
  cases h : c.dir <;> simp [roundA, h]

theorem roundB_sum (c : CoreState) :
    (roundB c).sum = if c.dir then c.sum - Config.deltaB else c.sum + Config.deltaB := by
  cases h : c.dir <;> simp [roundB, h]

end Sys2Proof.Machine
end

