-- ==== Sys2Proof/Laws/Ops.lean ====
section
/-! SUPPORT. What each shared operation can do, said once: the provers cite these lemmas and unfold nothing. -/

namespace Sys2Proof.Machine

/-- R151 to R153: an idle core stores, a busy one records error 3. -/
theorem storeData_cases (f : CoreState → CoreState) (c : CoreState) :
    (c.busy = false ∧ storeData f c = f c) ∨
    (c.busy = true ∧ storeData f c = recordErr errDataWhileBusy c) := by
  unfold storeData; cases h : c.busy <;> simp

/-- R154: an idle core decodes the command, a busy one records error 2. -/
theorem presentCommand_cases (f : CoreState → CoreState) (c : CoreState) :
    (c.busy = false ∧ presentCommand f c = f c) ∨
    (c.busy = true ∧ presentCommand f c = recordErr errCmdWhileBusy c) := by
  unfold presentCommand; cases h : c.busy <;> simp

/-- R124: `XFRM_B`'s start values in one form, by bit 63 of the count. -/
theorem startXfrmB_eq (c : CoreState) :
    startXfrmB c =
      accept 5#4 c.rounds.msb
        (if c.rounds.msb then Config.deltaB * neg64 c.rounds else 0#64)
        (if c.rounds.msb then 0#64 else Config.deltaB * c.rounds) 0#7 c := by
  unfold startXfrmB
  by_cases h0 : c.rounds = 0#64
  · rw [if_pos h0, h0]; rfl
  · cases hm : c.rounds.msb <;> simp [h0]

/-- What an accepted cipher command can leave (R104, R105, R124 to R126). -/
inductive Started (c : CoreState) : CoreState → Prop where
  | encA : Started c (startEncA c)
  | decA : Started c (startDecA c)
  | encB : Started c (startEncB c)
  | decB : Started c (startDecB c)
  | xfrmB : Started c (startXfrmB c)

/-- What an instruction can do to the core (R150 to R162): nothing; record an error; acknowledge (`WR STATUS` alone);
and, while idle only, store an operand or accept a command. -/
inductive CoreEffect (i : Instr) (c : CoreState) : CoreState → Prop where
  | same : CoreEffect i c c
  | error (code : BitVec 2) (h : code ≠ 0#2) : CoreEffect i c (recordErr code c)
  | acknowledged (w : Word) (h : i = .wrStatus w) : CoreEffect i c (acknowledge c)
  | storedKey (k : Key) (hi : c.busy = false)
      (h : ∃ w, i = .wrKey0 w ∨ i = .wrKey1 w ∨ i = .wrKey2 w ∨ i = .wrKey3 w) : CoreEffect i c { c with key := k }
  | storedBlock (b : Block) (hi : c.busy = false) : CoreEffect i c { c with block := b }
  | storedRounds (r : Word) (hi : c.busy = false) : CoreEffect i c { c with rounds := r }
  | accepted (c' : CoreState) (hi : c.busy = false) (h : Started c c') : CoreEffect i c c'

/-- R154: what the dispatch of a command word can do while idle. -/
theorem dispatchCommand_effect (i : Instr) (w : Word) (c : CoreState) (hi : c.busy = false) :
    CoreEffect i c (dispatchCommand w c) := by
  unfold dispatchCommand
  split
  · exact .error _ (by decide)
  split
  · exact .same
  repeat' split
  · exact .accepted _ hi .encA
  · exact .accepted _ hi .decA
  · exact .accepted _ hi .encB
  · exact .accepted _ hi .decB
  · exact .accepted _ hi .xfrmB

/-- An instruction answers a next state: a read returns the word its index holds and leaves the core, any other
instruction leaves a core that `CoreEffect` describes and returns nothing (R52). -/
theorem exec_cases (i : Instr) (s : State) :
    (i.isRead = true ∧ ∃ w, exec i s = .next (s.returnWord w)) ∨
    (i.isRead = false ∧ ∃ c, exec i s = .next (s.withCore c) ∧ CoreEffect i s.core c) := by
  have store : ∀ f : CoreState → CoreState,
      (s.core.busy = false → CoreEffect i s.core (f s.core)) → CoreEffect i s.core (storeData f s.core) := by
    intro f hf
    rcases storeData_cases f s.core with ⟨h, e⟩ | ⟨_, e⟩ <;> rw [e]
    · exact hf h
    · exact .error _ (by decide)
  have present : ∀ f : CoreState → CoreState,
      (s.core.busy = false → CoreEffect i s.core (f s.core)) → CoreEffect i s.core (presentCommand f s.core) := by
    intro f hf
    rcases presentCommand_cases f s.core with ⟨h, e⟩ | ⟨_, e⟩ <;> rw [e]
    · exact hf h
    · exact .error _ (by decide)
  cases i
  case nop => exact .inr ⟨rfl, _, rfl, present _ fun _ => .same⟩
  case encA => exact .inr ⟨rfl, _, rfl, present _ fun h => .accepted _ h .encA⟩
  case decA => exact .inr ⟨rfl, _, rfl, present _ fun h => .accepted _ h .decA⟩
  case encB => exact .inr ⟨rfl, _, rfl, present _ fun h => .accepted _ h .encB⟩
  case decB => exact .inr ⟨rfl, _, rfl, present _ fun h => .accepted _ h .decB⟩
  case xfrmB => exact .inr ⟨rfl, _, rfl, present _ fun h => .accepted _ h .xfrmB⟩
  case wrKey0 w => exact .inr ⟨rfl, _, rfl, store _ fun h => .storedKey _ h ⟨w, by simp⟩⟩
  case wrKey1 w => exact .inr ⟨rfl, _, rfl, store _ fun h => .storedKey _ h ⟨w, by simp⟩⟩
  case wrKey2 w => exact .inr ⟨rfl, _, rfl, store _ fun h => .storedKey _ h ⟨w, by simp⟩⟩
  case wrKey3 w => exact .inr ⟨rfl, _, rfl, store _ fun h => .storedKey _ h ⟨w, by simp⟩⟩
  case wrBlk0 w => exact .inr ⟨rfl, _, rfl, store _ fun h => .storedBlock _ h⟩
  case wrBlk1 w => exact .inr ⟨rfl, _, rfl, store _ fun h => .storedBlock _ h⟩
  case wrRounds w => exact .inr ⟨rfl, _, rfl, store _ fun h => .storedRounds _ h⟩
  case wrCmd w => exact .inr ⟨rfl, _, rfl, present _ fun h => dispatchCommand_effect _ w _ h⟩
  case wrStatus w => exact .inr ⟨rfl, _, rfl, .acknowledged w rfl⟩
  all_goals first
    | exact .inl ⟨rfl, _, rfl⟩
    | exact .inr ⟨rfl, _, rfl, .same⟩

/-- R163: what the engine's step can do: nothing on an idle core; on a busy one the step of its variant; the fault only
in the state R163 rules out. -/
theorem engineStep_cases (c : CoreState) :
    (c.busy = false ∧ engineStep c = .ok c) ∨
    (c.busy = true ∧ isVariantA c.opr = true ∧ engineStep c = .ok (stepA c)) ∨
    (c.busy = true ∧ isVariantA c.opr = false ∧ isVariantB c.opr = true ∧ engineStep c = .ok (stepB c)) ∨
    (c.busy = true ∧ isVariantA c.opr = false ∧ isVariantB c.opr = false ∧ engineStep c = .error .noOperation) := by
  unfold engineStep
  cases hb : c.busy <;> cases ha : isVariantA c.opr <;> cases hv : isVariantB c.opr <;> simp

/-- The engine's turn changes nothing but the core. -/
theorem engineTurn_cases (s : State) :
    (∃ c, engineStep s.core = .ok c ∧ engineTurn s = .next (s.withCore c)) ∨
    (engineStep s.core = .error .noOperation ∧ engineTurn s = .fault .noOperation) := by
  unfold engineTurn
  cases h : engineStep s.core with
  | ok c => exact .inl ⟨c, rfl, rfl⟩
  | error f => cases f; exact .inr ⟨rfl, rfl⟩

/-- R106: a Variant A engine step is the completion step or a double-round. -/
theorem stepA_cases (c : CoreState) :
    (c.cnt = 0#7 ∧ stepA c = complete c) ∨ (c.cnt ≠ 0#7 ∧ stepA c = roundA c) := by
  unfold stepA; by_cases h : c.cnt = 0#7 <;> simp [h]

/-- R127: a Variant B engine step is the completion step or a double-round. -/
theorem stepB_cases (c : CoreState) :
    (c.sum = c.limit ∧ stepB c = complete c) ∨ (c.sum ≠ c.limit ∧ stepB c = roundB c) := by
  unfold stepB; by_cases h : c.sum = c.limit <;> simp [h]

/-- R67, R190: what a clock edge can do. -/
theorem clockEdge_cases (p : Pins) (s : State) :
    (p.rst = true ∧ clockEdge p s = .next s.resetCore) ∨
    (p.rst = false ∧ p.sel = true ∧ s.core.busy = true ∧
      ∃ t, hostTurn p.bus s = .next t ∧ clockEdge p s = engineTurn t) ∨
    (p.rst = false ∧ p.sel = true ∧ s.core.busy = false ∧ clockEdge p s = hostTurn p.bus s) ∨
    (p.rst = false ∧ p.sel = false ∧ s.core.busy = true ∧ clockEdge p s = engineTurn s) ∨
    (p.rst = false ∧ p.sel = false ∧ s.core.busy = false ∧ clockEdge p s = .next s) := by
  have hx : ∃ t, hostTurn p.bus s = .next t := by
    rcases exec_cases (decodeBus p.bus) s with ⟨_, w, h⟩ | ⟨_, c, h, _⟩ <;> exact ⟨_, h⟩
  obtain ⟨t, ht⟩ := hx
  unfold clockEdge
  cases hr : p.rst <;> cases hs : p.sel <;> cases hb : s.core.busy <;> simp [ht]

/-! ### `WAIT` (R90) -/

/-- R32: bit 0 of `STATUS` is `BUSY`. -/
@[simp] theorem readsBusy_statusWord (c : CoreState) : readsBusy (statusWord c) = c.busy := by
  unfold readsBusy statusWord
  generalize c.err = e
  cases c.busy <;> cases c.done <;> revert e <;> decide

/-- R161: `RD STATUS` as a host transaction. -/
theorem hostTurn_rdStatus (s : State) : hostTurn (scriptRd 8#4) s = .next (s.returnWord (statusWord s.core)) := rfl

/-- R90: an untimed poll returns `STATUS`; the `WAIT` goes on exactly when it reads `BUSY = 1`. -/
theorem waitTurn_cases (gaps : List Nat) (s : State) :
    (s.core.busy = true ∧
      waitTurn gaps s = .next ((s.returnWord (statusWord s.core)).before (waitAgain gaps))) ∨
    (s.core.busy = false ∧ waitTurn gaps s = .next (s.returnWord (statusWord s.core))) := by
  have hr : regRead s.core 8#4 = statusWord s.core := rfl
  simp only [waitTurn, pollStatus, hostTurn_rdStatus, hr, readsBusy_statusWord]
  cases s.core.busy <;> simp

/-- R90, R67: a clocked poll returns `STATUS` as it is before the edge; while busy the engine's step follows in the same
cycle and the `WAIT` goes on. -/
theorem waitCycle_cases (gaps : List Nat) (s : State) :
    (s.core.busy = true ∧ ∃ c, engineStep s.core = .ok c ∧
      waitCycle gaps s = .next (((s.returnWord (statusWord s.core)).withCore c).before (waitCyclesAgain gaps))) ∨
    (s.core.busy = true ∧ engineStep s.core = .error .noOperation ∧ waitCycle gaps s = .fault .noOperation) ∨
    (s.core.busy = false ∧ waitCycle gaps s = .next (s.returnWord (statusWord s.core))) := by
  have hr : regRead s.core 8#4 = statusWord s.core := rfl
  have hb : (pinsOf (scriptRd 8#4)).bus = scriptRd 8#4 := by decide
  have hn : (pinsOf (scriptRd 8#4)).rst = false ∧ (pinsOf (scriptRd 8#4)).sel = true := by decide
  simp only [waitCycle, pollStatus, clockEdge, hn, hb, hostTurn_rdStatus, hr, readsBusy_statusWord]
  cases h : s.core.busy
  · simp
  · rcases engineTurn_cases (s.returnWord (statusWord s.core)) with ⟨c, hc, ht⟩ | ⟨hc, ht⟩ <;>
      rw [State.returnWord_core] at hc <;> simp [ht, hc]

/-! ### Host programs as events (R62, R67) -/

@[simp] theorem weave_nil (idle : Event) (host : BitVec 69 → Event) (wait : List Nat → Event) (paces : List Pace) :
    weave idle host wait paces [] = [] := by cases paces <;> rfl

theorem weave_cons (idle : Event) (host : BitVec 69 → Event) (wait : List Nat → Event) (paces : List Pace) (l : Line)
    (ls : List Line) :
    weave idle host wait paces (l :: ls) =
      List.replicate (paces.headD { before := 0, gaps := [] }).before idle ++
        l.event host wait (paces.headD { before := 0, gaps := [] }).gaps :: weave idle host wait paces.tail ls := by
  cases paces <;> rfl

/-! ### Steps and runs -/

/-- A step with something scripted is that event's. -/
theorem step_cons (s : State) (e : Event) (rest : List Event) (h : s.script = e :: rest) :
    step s = runEvent e { s with script := rest } := by
  unfold step; rw [h]

/-- A step with nothing scripted is the engine's turn. -/
theorem step_nil (s : State) (h : s.script = []) : step s = engineTurn s := by
  unfold step; rw [h]

/-- A run's first step. -/
theorem run_succ (n : Nat) (s t : State) (h : step s = .next t) : run (n + 1) s = run n t := by
  simp [run, h]

/-- A run in two parts. -/
theorem run_add (m n : Nat) (s t : State) (h : run m s = .next t) : run (m + n) s = run n t := by
  induction m generalizing s with
  | zero => simp only [run, Host.Outcome.next.injEq] at h; simp [h]
  | succ m ih =>
    rw [Nat.succ_add]
    simp only [run] at h ⊢
    cases hs : step s with
    | next u => rw [hs] at h; exact ih u h
    | fault f => simp [hs] at h
    | refused r => simp [hs] at h

/-- A run of any machine from a step it has taken. -/
theorem host_run_succ (M : Host.Core) (n : Nat) (s : M.State) :
    M.run (n + 1) s =
      match M.step s with
      | .next t => M.run n t
      | .fault f => .fault f
      | .refused r => .refused r := rfl

/-- The run of Host/Core.lean on this machine is `run`. -/
theorem core_run_eq (n : Nat) (s : State) : Sys2Proof.core.run n s = run n s := by
  induction n generalizing s with
  | zero => rfl
  | succ n ih =>
    refine (host_run_succ Sys2Proof.core n s).trans ?_
    have hc : Sys2Proof.core.step s = step s := rfl
    rw [run, hc]
    cases h : step s with
    | next t => exact ih t
    | fault f => rfl
    | refused r => rfl

end Sys2Proof.Machine
end

