-- ==== Sys2Proof/Laws/PerInstr.lean ====
section
/-! SUPPORT. A fact of every instruction as syntax: its words carry the fixed bits of its row of spec/opcode_table.json. -/

namespace Sys2Proof.Laws

/-- The table's "match" of an instruction's row. -/
def rowMatch : Instr → Nat
  | .nop => 0x0000000000000000
  | .encA => 0x0000000000000001
  | .decA => 0x0000000000000002
  | .encB => 0x0000000000000003
  | .decB => 0x0000000000000004
  | .xfrmB => 0x0000000000000005
  | .wrKey0 _ => 0x100000000000000000
  | .wrKey1 _ => 0x110000000000000000
  | .wrKey2 _ => 0x120000000000000000
  | .wrKey3 _ => 0x130000000000000000
  | .wrBlk0 _ => 0x140000000000000000
  | .wrBlk1 _ => 0x150000000000000000
  | .wrRounds _ => 0x160000000000000000
  | .wrCmd _ => 0x170000000000000000
  | .wrStatus _ => 0x180000000000000000
  | .wrR9 _ => 0x190000000000000000
  | .wrR10 _ => 0x1A0000000000000000
  | .wrR11 _ => 0x1B0000000000000000
  | .wrR12 _ => 0x1C0000000000000000
  | .wrR13 _ => 0x1D0000000000000000
  | .wrR14 _ => 0x1E0000000000000000
  | .wrR15 _ => 0x1F0000000000000000
  | .rdKey0 => 0x000000000000000000
  | .rdKey1 => 0x010000000000000000
  | .rdKey2 => 0x020000000000000000
  | .rdKey3 => 0x030000000000000000
  | .rdBlk0 => 0x040000000000000000
  | .rdBlk1 => 0x050000000000000000
  | .rdRounds => 0x060000000000000000
  | .rdCmd => 0x070000000000000000
  | .rdStatus => 0x080000000000000000
  | .rdR9 => 0x090000000000000000
  | .rdR10 => 0x0A0000000000000000
  | .rdR11 => 0x0B0000000000000000
  | .rdR12 => 0x0C0000000000000000
  | .rdR13 => 0x0D0000000000000000
  | .rdR14 => 0x0E0000000000000000
  | .rdR15 => 0x0F0000000000000000

/-- The words of an instruction carry its row's fixed bits: all 64 of a command word, the five bits `we ‖ idx` of a host
transaction (R81, R83). -/
def Row.Statement (i : Instr) : Prop :=
  match encodeWord i with
  | .cmd w => w = BitVec.ofNat 64 (rowMatch i)
  | .bus b => b &&& 0x1F0000000000000000#69 = BitVec.ofNat 69 (rowMatch i)

/-- The fixed bits of a host transaction do not depend on its data. -/
theorem busWord_and_mask (we : Bool) (idx : BitVec 4) (w : Word) :
    busWord we idx w &&& 0x1F0000000000000000#69 = busWord we idx 0#64 := by
  have hm : (0x1F0000000000000000#69) = (31#5 ++ 0#64 : BitVec 69) := by decide
  rw [hm]
  apply BitVec.eq_of_getLsbD_eq
  intro i hi
  simp only [busWord, BitVec.getLsbD_and, BitVec.getLsbD_append]
  by_cases h : i < 64
  · simp [h]
  · have h5 : i - 64 < 5 := by omega
    have : (31#5).getLsbD (i - 64) = true := by
      interval_cases hk : i - 64 <;> rfl
    simp [h, this]

theorem Row.nop : Row.Statement .nop := rfl

theorem Row.encA : Row.Statement .encA := rfl

theorem Row.decA : Row.Statement .decA := rfl

theorem Row.encB : Row.Statement .encB := rfl

theorem Row.decB : Row.Statement .decB := rfl

theorem Row.xfrmB : Row.Statement .xfrmB := rfl

theorem Row.wrKey0 (w : Word) : Row.Statement (.wrKey0 w) :=
  (busWord_and_mask _ _ _).trans (show busWord true 0#4 0#64 = 0x100000000000000000#69 by decide)

theorem Row.wrKey1 (w : Word) : Row.Statement (.wrKey1 w) :=
  (busWord_and_mask _ _ _).trans (show busWord true 1#4 0#64 = 0x110000000000000000#69 by decide)

theorem Row.wrKey2 (w : Word) : Row.Statement (.wrKey2 w) :=
  (busWord_and_mask _ _ _).trans (show busWord true 2#4 0#64 = 0x120000000000000000#69 by decide)

theorem Row.wrKey3 (w : Word) : Row.Statement (.wrKey3 w) :=
  (busWord_and_mask _ _ _).trans (show busWord true 3#4 0#64 = 0x130000000000000000#69 by decide)

theorem Row.wrBlk0 (w : Word) : Row.Statement (.wrBlk0 w) :=
  (busWord_and_mask _ _ _).trans (show busWord true 4#4 0#64 = 0x140000000000000000#69 by decide)

theorem Row.wrBlk1 (w : Word) : Row.Statement (.wrBlk1 w) :=
  (busWord_and_mask _ _ _).trans (show busWord true 5#4 0#64 = 0x150000000000000000#69 by decide)

theorem Row.wrRounds (w : Word) : Row.Statement (.wrRounds w) :=
  (busWord_and_mask _ _ _).trans (show busWord true 6#4 0#64 = 0x160000000000000000#69 by decide)

theorem Row.wrCmd (w : Word) : Row.Statement (.wrCmd w) :=
  (busWord_and_mask _ _ _).trans (show busWord true 7#4 0#64 = 0x170000000000000000#69 by decide)

theorem Row.wrStatus (w : Word) : Row.Statement (.wrStatus w) :=
  (busWord_and_mask _ _ _).trans (show busWord true 8#4 0#64 = 0x180000000000000000#69 by decide)

theorem Row.wrR9 (w : Word) : Row.Statement (.wrR9 w) :=
  (busWord_and_mask _ _ _).trans (show busWord true 9#4 0#64 = 0x190000000000000000#69 by decide)

theorem Row.wrR10 (w : Word) : Row.Statement (.wrR10 w) :=
  (busWord_and_mask _ _ _).trans (show busWord true 10#4 0#64 = 0x1A0000000000000000#69 by decide)

theorem Row.wrR11 (w : Word) : Row.Statement (.wrR11 w) :=
  (busWord_and_mask _ _ _).trans (show busWord true 11#4 0#64 = 0x1B0000000000000000#69 by decide)

theorem Row.wrR12 (w : Word) : Row.Statement (.wrR12 w) :=
  (busWord_and_mask _ _ _).trans (show busWord true 12#4 0#64 = 0x1C0000000000000000#69 by decide)

theorem Row.wrR13 (w : Word) : Row.Statement (.wrR13 w) :=
  (busWord_and_mask _ _ _).trans (show busWord true 13#4 0#64 = 0x1D0000000000000000#69 by decide)

theorem Row.wrR14 (w : Word) : Row.Statement (.wrR14 w) :=
  (busWord_and_mask _ _ _).trans (show busWord true 14#4 0#64 = 0x1E0000000000000000#69 by decide)

theorem Row.wrR15 (w : Word) : Row.Statement (.wrR15 w) :=
  (busWord_and_mask _ _ _).trans (show busWord true 15#4 0#64 = 0x1F0000000000000000#69 by decide)

theorem Row.rdKey0 : Row.Statement .rdKey0 :=
  (busWord_and_mask _ _ _).trans (show busWord false 0#4 0#64 = 0x000000000000000000#69 by decide)

theorem Row.rdKey1 : Row.Statement .rdKey1 :=
  (busWord_and_mask _ _ _).trans (show busWord false 1#4 0#64 = 0x010000000000000000#69 by decide)

theorem Row.rdKey2 : Row.Statement .rdKey2 :=
  (busWord_and_mask _ _ _).trans (show busWord false 2#4 0#64 = 0x020000000000000000#69 by decide)

theorem Row.rdKey3 : Row.Statement .rdKey3 :=
  (busWord_and_mask _ _ _).trans (show busWord false 3#4 0#64 = 0x030000000000000000#69 by decide)

theorem Row.rdBlk0 : Row.Statement .rdBlk0 :=
  (busWord_and_mask _ _ _).trans (show busWord false 4#4 0#64 = 0x040000000000000000#69 by decide)

theorem Row.rdBlk1 : Row.Statement .rdBlk1 :=
  (busWord_and_mask _ _ _).trans (show busWord false 5#4 0#64 = 0x050000000000000000#69 by decide)

theorem Row.rdRounds : Row.Statement .rdRounds :=
  (busWord_and_mask _ _ _).trans (show busWord false 6#4 0#64 = 0x060000000000000000#69 by decide)

theorem Row.rdCmd : Row.Statement .rdCmd :=
  (busWord_and_mask _ _ _).trans (show busWord false 7#4 0#64 = 0x070000000000000000#69 by decide)

theorem Row.rdStatus : Row.Statement .rdStatus :=
  (busWord_and_mask _ _ _).trans (show busWord false 8#4 0#64 = 0x080000000000000000#69 by decide)

theorem Row.rdR9 : Row.Statement .rdR9 :=
  (busWord_and_mask _ _ _).trans (show busWord false 9#4 0#64 = 0x090000000000000000#69 by decide)

theorem Row.rdR10 : Row.Statement .rdR10 :=
  (busWord_and_mask _ _ _).trans (show busWord false 10#4 0#64 = 0x0A0000000000000000#69 by decide)

theorem Row.rdR11 : Row.Statement .rdR11 :=
  (busWord_and_mask _ _ _).trans (show busWord false 11#4 0#64 = 0x0B0000000000000000#69 by decide)

theorem Row.rdR12 : Row.Statement .rdR12 :=
  (busWord_and_mask _ _ _).trans (show busWord false 12#4 0#64 = 0x0C0000000000000000#69 by decide)

theorem Row.rdR13 : Row.Statement .rdR13 :=
  (busWord_and_mask _ _ _).trans (show busWord false 13#4 0#64 = 0x0D0000000000000000#69 by decide)

theorem Row.rdR14 : Row.Statement .rdR14 :=
  (busWord_and_mask _ _ _).trans (show busWord false 14#4 0#64 = 0x0E0000000000000000#69 by decide)

theorem Row.rdR15 : Row.Statement .rdR15 :=
  (busWord_and_mask _ _ _).trans (show busWord false 15#4 0#64 = 0x0F0000000000000000#69 by decide)

end Sys2Proof.Laws
end

