-- ==== Sys2Proof/Laws/Rounds.lean ====
section
/-! SUPPORT. What the engine does in each of its cases, what a command word starts, and the state after several round
steps of a running command. -/

namespace Sys2Proof.Machine

/-! ### The command dispatch (R154), word by word -/

theorem dispatchCommand_nop (c : CoreState) : dispatchCommand 0#64 c = c := by simp [dispatchCommand]
theorem dispatchCommand_encA (c : CoreState) : dispatchCommand 1#64 c = startEncA c := by simp [dispatchCommand]
theorem dispatchCommand_decA (c : CoreState) : dispatchCommand 2#64 c = startDecA c := by simp [dispatchCommand]
theorem dispatchCommand_encB (c : CoreState) : dispatchCommand 3#64 c = startEncB c := by simp [dispatchCommand]
theorem dispatchCommand_decB (c : CoreState) : dispatchCommand 4#64 c = startDecB c := by simp [dispatchCommand]
theorem dispatchCommand_xfrmB (c : CoreState) : dispatchCommand 5#64 c = startXfrmB c := by simp [dispatchCommand]

theorem dispatchCommand_illegal (w : Word) (c : CoreState) (h : 5#64 < w) :
    dispatchCommand w c = recordErr errIllegalCmd c := by simp [dispatchCommand, h]

/-! ### The engine's step (R163), case by case -/

theorem engineStep_idle (c : CoreState) (hb : c.busy = false) : engineStep c = .ok c := by simp [engineStep, hb]

theorem engineStep_roundA (c : CoreState) (hb : c.busy = true) (ho : isVariantA c.opr = true) (hc : c.cnt ≠ 0#7) :
    engineStep c = .ok (roundA c) := by simp [engineStep, hb, ho, stepA, hc]

theorem engineStep_completeA (c : CoreState) (hb : c.busy = true) (ho : isVariantA c.opr = true) (hc : c.cnt = 0#7) :
    engineStep c = .ok (complete c) := by simp [engineStep, hb, ho, stepA, hc]

theorem engineStep_roundB (c : CoreState) (hb : c.busy = true) (ha : isVariantA c.opr = false)
    (hv : isVariantB c.opr = true) (hc : c.sum ≠ c.limit) : engineStep c = .ok (roundB c) := by
  simp [engineStep, hb, ha, hv, stepB, hc]

theorem engineStep_completeB (c : CoreState) (hb : c.busy = true) (ha : isVariantA c.opr = false)
    (hv : isVariantB c.opr = true) (hc : c.sum = c.limit) : engineStep c = .ok (complete c) := by
  simp [engineStep, hb, ha, hv, stepB, hc]

/-! ### Several round steps (R163: they change `BLOCK`, `SUM` and, in Variant A, `CNT` only) -/

theorem roundA_iterate (c : CoreState) (n : Nat) :
    roundA^[n] c =
      { c.withRnd ((if c.dir then invA c.key else fwdA c.key)^[n] c.rnd) with cnt := c.cnt - BitVec.ofNat 7 n } := by
  induction n with
  | zero => simp [CoreState.withRnd, CoreState.rnd]
  | succ n ih =>
    have hn : BitVec.ofNat 7 (n + 1) = BitVec.ofNat 7 n + 1#7 := by simp [BitVec.ofNat_add]
    have hs : ∀ x : BitVec 7, c.cnt - x - 1#7 = c.cnt - (x + 1#7) := by intro x; ring
    rw [Function.iterate_succ_apply', ih, Function.iterate_succ_apply', hn, ← hs]
    cases h : c.dir <;> simp [roundA, CoreState.withRnd, CoreState.rnd, h]

theorem roundB_iterate (c : CoreState) (n : Nat) :
    roundB^[n] c = c.withRnd ((if c.dir then invB c.key else fwdB c.key)^[n] c.rnd) := by
  induction n with
  | zero => simp [CoreState.withRnd, CoreState.rnd]
  | succ n ih =>
    rw [Function.iterate_succ_apply', ih, Function.iterate_succ_apply']
    cases h : c.dir <;> simp [roundB, CoreState.withRnd, CoreState.rnd, h]

/-- R26, R102: `SUM` after `n` forward double-rounds of Variant A. -/
theorem fwdA_iterate_sum (k : Key) (n : Nat) (r : Rnd) :
    ((fwdA k)^[n] r).sum = r.sum + Config.deltaA * BitVec.ofNat 64 n := by
  induction n generalizing r with
  | zero => simp
  | succ n ih => rw [Function.iterate_succ_apply, ih, fwdA_sum, BitVec.ofNat_add, BitVec.mul_add, BitVec.mul_one]; ring

/-- R26, R103: `SUM` after `n` inverse double-rounds of Variant A. -/
theorem invA_iterate_sum (k : Key) (n : Nat) (r : Rnd) :
    ((invA k)^[n] r).sum = r.sum - Config.deltaA * BitVec.ofNat 64 n := by
  induction n generalizing r with
  | zero => simp
  | succ n ih => rw [Function.iterate_succ_apply, ih, invA_sum, BitVec.ofNat_add, BitVec.mul_add, BitVec.mul_one]; ring

/-- R122: `SUM` after `n` forward double-rounds of Variant B. -/
theorem fwdB_iterate_sum (k : Key) (n : Nat) (r : Rnd) :
    ((fwdB k)^[n] r).sum = r.sum + Config.deltaB * BitVec.ofNat 64 n := by
  induction n generalizing r with
  | zero => simp
  | succ n ih => rw [Function.iterate_succ_apply, ih, fwdB_sum, BitVec.ofNat_add, BitVec.mul_add, BitVec.mul_one]; ring

/-- R123: `SUM` after `n` inverse double-rounds of Variant B. -/
theorem invB_iterate_sum (k : Key) (n : Nat) (r : Rnd) :
    ((invB k)^[n] r).sum = r.sum - Config.deltaB * BitVec.ofNat 64 n := by
  induction n generalizing r with
  | zero => simp
  | succ n ih => rw [Function.iterate_succ_apply, ih, invB_sum, BitVec.ofNat_add, BitVec.mul_add, BitVec.mul_one]; ring

/-- R6: two counts give the same multiple of `DELTA_B` exactly when they agree modulo `PERIOD_B`. -/
theorem deltaB_mul_eq_iff (a b : Nat) :
    Config.deltaB * BitVec.ofNat 64 a = Config.deltaB * BitVec.ofNat 64 b ↔ a % 2 ^ 61 = b % 2 ^ 61 := by
  rw [← BitVec.toNat_inj]
  simp only [BitVec.toNat_mul, BitVec.toNat_ofNat, Nat.mul_mod_mod]
  have hd : ∀ x, Config.deltaB.toNat * x = 2 ^ 3 * (142508935241539981 * x) := by
    intro x; rw [← Nat.mul_assoc]; rfl
  rw [hd a, hd b, show 2 ^ 64 = 2 ^ 3 * 2 ^ 61 by norm_num]
  show Nat.ModEq (2 ^ 3 * 2 ^ 61) _ _ ↔ Nat.ModEq (2 ^ 61) _ _
  rw [Nat.ModEq.mul_left_cancel_iff' (by norm_num)]
  exact ⟨fun h => Nat.ModEq.cancel_left_of_coprime (by decide +kernel) h, fun h => h.mul_left _⟩

/-- R128: a loop that first meets its limit after `n` rounds is `n` rounds. -/
theorem whileB_eq_iterate (f : Rnd → Rnd) (limit : Word) (n fuel : Nat) (r : Rnd) (hn : n ≤ fuel)
    (before : ∀ j < n, (f^[j] r).sum ≠ limit) (stop : (f^[n] r).sum = limit) :
    whileB f limit fuel r = f^[n] r := by
  induction n generalizing fuel r with
  | zero =>
    cases fuel with
    | zero => rfl
    | succ fuel => simp only [Function.iterate_zero, id_eq] at stop; simp [whileB, stop]
  | succ n ih =>
    obtain ⟨fuel, rfl⟩ : ∃ m, fuel = m + 1 := ⟨fuel - 1, by omega⟩
    have h0 : r.sum ≠ limit := before 0 (by omega)
    simp only [whileB, if_neg h0]
    rw [ih fuel (f r) (by omega) (fun j hj => before (j + 1) (by omega)) stop]
    rfl

/-! ### One step of the machine -/

/-- R154: an idle core takes the command word it is given. -/
theorem step_command (s : State) (w : Word) (rest : List Event) (hb : s.core.busy = false) :
    step { s with script := .host (busWord true 7#4 w) :: rest } =
      .next { s with script := rest, core := dispatchCommand w s.core } := by
  show exec (decodeBus (busWord true 7#4 w)) _ = _
  rw [decodeBus_write]
  show execWrCmd w _ = _
  simp [execWrCmd, presentCommand, hb, State.withCore]

/-- R163: the engine's turn as a step. -/
theorem step_engine (s : State) (rest : List Event) (c : CoreState) (hs : s.script = .engine :: rest)
    (hc : engineStep s.core = .ok c) : step s = .next { s with script := rest, core := c } := by
  rw [step_cons s _ _ hs]
  show engineTurn _ = _
  unfold engineTurn
  simp [hc, State.withCore]

/-- R52: an instruction does not look at the host's script. -/
theorem exec_script (i : Instr) (s t : State) (script : List Event) (h : exec i s = .next t) :
    exec i { s with script := script } = .next { t with script := script } := by
  cases i <;> cases h <;> rfl

end Sys2Proof.Machine
end

