-- ==== Sys2Proof/Tests/Slice0.lean ====
section
/-! SUPPORT. Tests. Every expected value is the spec's: its encoding tables (30_encoding.md R81 to R85), its vectors
(95_test_vectors.md, the section is named at each test) or a rule named there. After them, for every statement of
Certificates/Slice0/Obligations.lean that has hypotheses, concrete values that meet them. -/

namespace Sys2Proof.Tests

open Sys2Proof.Machine

/-! ### Small states -/

/-- The key `k1` of 95_test_vectors.md. -/
def k1 : Key := { k0 := 0#64, k1 := 0#64, k2 := 0#64, k3 := 1#64 }

/-- The key `k2` of 95_test_vectors.md. -/
def k2 : Key :=
  { k0 := 0x0123456789ABCDEF#64, k1 := 0xFEDCBA9876543210#64, k2 := 0x0F1E2D3C4B5A6978#64, k3 := 0x8796A5B4C3D2E1F0#64 }

/-- The block `p2` of 95_test_vectors.md. -/
def p2 : Block := { v0 := 0x0011223344556677#64, v1 := 0x8899AABBCCDDEEFF#64 }

/-- An idle core loaded with operands. -/
def loaded (k : Key) (b : Block) (r : Word) : CoreState := { CoreState.reset with key := k, block := b, rounds := r }

/-- A machine around a core, with a script. -/
def machine (c : CoreState) (script : List Event) : State := { core := c, script := script, reads := [] }

/-- An idle machine with `KEY = k2`, `BLOCK = p2`, `ROUNDS = 3`, `DONE = 1`, `ERR = 1`. -/
def idle : State := machine { loaded k2 p2 3#64 with opr := 1#4, done := true, err := 1#2 } []

/-- A machine just after the accept of `ENC_A`. -/
def busyA : State := machine (startEncA (loaded k2 p2 3#64)) []

/-- A machine just after the accept of `XFRM_B` with `N = 3`. -/
def busyB : State := machine (startXfrmB (loaded k2 p2 3#64)) []

/-- A core that meets the invariant, running `ENC_A`, with `CNT = 0`: its last step. -/
def lastStepA : CoreState := { startEncA (loaded k2 p2 3#64) with sum := Config.sum64A, cnt := 0#7 }

/-- What a test looks at in a next state; `none` if there is none. -/
def seen {α : Type} (look : State → α) : Result → Option α
  | .next t => some (look t)
  | .fault _ => none
  | .refused _ => none

/-- `STATUS`, `OPR` and the block. -/
def face (s : State) : Word × BitVec 4 × Word × Word :=
  (statusWord s.core, s.core.opr, s.core.block.v0, s.core.block.v1)

/-- The loop registers `DIR`, `SUM`, `LIMIT`, `CNT`. -/
def loop (s : State) : Bool × Word × Word × BitVec 7 := (s.core.dir, s.core.sum, s.core.limit, s.core.cnt)

/-- The word a read has just returned, and `STATUS`. -/
def returned (s : State) : List Word × Word := (s.reads, statusWord s.core)

/-! ### Well-formedness and the decoder's refusals -/

/-- R80: every operand value is legal, so no term is ill formed; the terms at the ends of the operand's range. -/
theorem test_terms_are_well_formed :
    (Instr.wrRounds 0x8000000000000000#64).wellFormed = true ∧ (Instr.wrCmd 0xFFFFFFFFFFFFFFFF#64).wellFormed = true := by
  decide

/-- R80: seven bytes and ten bytes are neither format. -/
theorem test_wrong_length_is_refused :
    encodingLengthOk (toBytes 7 1) = false ∧ wellFormedBytes (toBytes 7 1) = false ∧
    decode (toBytes 7 1) = .error (.wrongLength 7) ∧
    encodingLengthOk (toBytes 10 1) = false ∧ wellFormedBytes (toBytes 10 1) = false ∧
    decode (toBytes 10 1) = .error (.wrongLength 10) := by decide

/-- R85, 95 section 7.1: the words 6, 10H and 8000000000000003H are illegal. -/
theorem test_illegal_command_is_refused :
    commandBytesOk (toBytes 8 6) = false ∧ wellFormedBytes (toBytes 8 6) = false ∧
    decode (toBytes 8 6) = .error (.illegalCommand 6#64) ∧
    commandBytesOk (toBytes 8 0x10) = false ∧ decode (toBytes 8 0x10) = .error (.illegalCommand 0x10#64) ∧
    commandBytesOk (toBytes 8 0x8000000000000003) = false ∧
    decode (toBytes 8 0x8000000000000003) = .error (.illegalCommand 0x8000000000000003#64) := by decide

/-- R80: a host transaction has 69 bits, so bit 69 of nine bytes must be 0; bit 68 need not. -/
theorem test_padding_is_refused :
    transactionBytesOk (toBytes 9 (2 ^ 69)) = false ∧ wellFormedBytes (toBytes 9 (2 ^ 69)) = false ∧
    decode (toBytes 9 (2 ^ 69)) = .error (.nonzeroPadding (2 ^ 69)) ∧
    wellFormedBytes (toBytes 9 (2 ^ 68)) = true := by decide

/-! ### Every constructor decodes from a word written out from R81 and R83 -/

/-- R82, R83: the six command words. -/
theorem test_decode_commands :
    decodeTableWord 64 0x0000000000000000 = some .nop ∧ decodeTableWord 64 0x0000000000000001 = some .encA ∧
    decodeTableWord 64 0x0000000000000002 = some .decA ∧ decodeTableWord 64 0x0000000000000003 = some .encB ∧
    decodeTableWord 64 0x0000000000000004 = some .decB ∧ decodeTableWord 64 0x0000000000000005 = some .xfrmB := by
  decide

/-- R81: `1:idx:0123456789ABCDEF`, the write of the registers below 8. -/
theorem test_decode_writes_low :
    decodeTableWord 72 0x100123456789ABCDEF = some (.wrKey0 0x0123456789ABCDEF#64) ∧
    decodeTableWord 72 0x110123456789ABCDEF = some (.wrKey1 0x0123456789ABCDEF#64) ∧
    decodeTableWord 72 0x120123456789ABCDEF = some (.wrKey2 0x0123456789ABCDEF#64) ∧
    decodeTableWord 72 0x130123456789ABCDEF = some (.wrKey3 0x0123456789ABCDEF#64) ∧
    decodeTableWord 72 0x140123456789ABCDEF = some (.wrBlk0 0x0123456789ABCDEF#64) ∧
    decodeTableWord 72 0x150123456789ABCDEF = some (.wrBlk1 0x0123456789ABCDEF#64) ∧
    decodeTableWord 72 0x160123456789ABCDEF = some (.wrRounds 0x0123456789ABCDEF#64) ∧
    decodeTableWord 72 0x170123456789ABCDEF = some (.wrCmd 0x0123456789ABCDEF#64) := by
  decide

/-- R81: `1:idx:FEDCBA9876543210`, the write of the registers from 8 on. -/
theorem test_decode_writes_high :
    decodeTableWord 72 0x18FEDCBA9876543210 = some (.wrStatus 0xFEDCBA9876543210#64) ∧
    decodeTableWord 72 0x19FEDCBA9876543210 = some (.wrR9 0xFEDCBA9876543210#64) ∧
    decodeTableWord 72 0x1AFEDCBA9876543210 = some (.wrR10 0xFEDCBA9876543210#64) ∧
    decodeTableWord 72 0x1BFEDCBA9876543210 = some (.wrR11 0xFEDCBA9876543210#64) ∧
    decodeTableWord 72 0x1CFEDCBA9876543210 = some (.wrR12 0xFEDCBA9876543210#64) ∧
    decodeTableWord 72 0x1DFEDCBA9876543210 = some (.wrR13 0xFEDCBA9876543210#64) ∧
    decodeTableWord 72 0x1EFEDCBA9876543210 = some (.wrR14 0xFEDCBA9876543210#64) ∧
    decodeTableWord 72 0x1FFEDCBA9876543210 = some (.wrR15 0xFEDCBA9876543210#64) := by
  decide

/-- R81: `0:idx:0`, the reads; a read's data field is ignored (the last two). -/
theorem test_decode_reads :
    decodeTableWord 72 0x000000000000000000 = some .rdKey0 ∧
    decodeTableWord 72 0x010000000000000000 = some .rdKey1 ∧
    decodeTableWord 72 0x020000000000000000 = some .rdKey2 ∧
    decodeTableWord 72 0x030000000000000000 = some .rdKey3 ∧
    decodeTableWord 72 0x040000000000000000 = some .rdBlk0 ∧
    decodeTableWord 72 0x050000000000000000 = some .rdBlk1 ∧
    decodeTableWord 72 0x060000000000000000 = some .rdRounds ∧
    decodeTableWord 72 0x070000000000000000 = some .rdCmd ∧
    decodeTableWord 72 0x080000000000000000 = some .rdStatus ∧
    decodeTableWord 72 0x090000000000000000 = some .rdR9 ∧
    decodeTableWord 72 0x0A0000000000000000 = some .rdR10 ∧
    decodeTableWord 72 0x0B0000000000000000 = some .rdR11 ∧
    decodeTableWord 72 0x0C0000000000000000 = some .rdR12 ∧
    decodeTableWord 72 0x0D0000000000000000 = some .rdR13 ∧
    decodeTableWord 72 0x0E0000000000000000 = some .rdR14 ∧
    decodeTableWord 72 0x0F0000000000000000 = some .rdR15 ∧
    decodeTableWord 72 0x05FFFFFFFFFFFFFFFF = some .rdBlk1 ∧
    decodeTableWord 72 0x088000000000000001 = some .rdStatus := by
  decide

/-- R81, R82: the encoder writes the words of the tables. -/
theorem test_encode_words :
    encodeWord .xfrmB = .cmd 0x0000000000000005#64 ∧
    encodeWord (.wrKey3 0xFEDCBA9876543210#64) = .bus 0x13FEDCBA9876543210#69 ∧
    encodeWord (.wrR15 1#64) = .bus 0x1F0000000000000001#69 ∧
    encodeWord .rdStatus = .bus 0x080000000000000000#69 := by decide

/-! ### The arithmetic of the rounds (95 sections 2 and 5) -/

/-- 95 section 2.1. -/
theorem test_mixA_vectors :
    mixA 0x0002000000000000#64 = 0x8002000400000000#64 ∧ mixA 0x0004000000000000#64 = 0x0004000800000000#64 ∧
    mixA 0x0000000000008000#64 = 0x0000000020008001#64 ∧ mixA 0x0123456789ABCDEF#64 = 0xD27D25940360A146#64 := by decide

/-- 95 section 2.3. -/
theorem test_mixB_vectors :
    mixB 0x0123456789ABCDEF#64 0x0FD258F8F3210C68#64 0xFEDCBA9876543210#64 = 0x200B248B97D07436#64 ∧
    mixB 0x12#64 0x0FD258F8F3210C68#64 0#64 = 0x0FD258F8F3210D9A#64 := by decide

/-- 95 section 2.4. -/
theorem test_termA_vectors :
    termA 0x0123456789ABCDEF#64 0x9E3779B97F4A7C15#64 0xFEDCBA9876543210#64 = 0x4F6911C5F6FE0F63#64 ∧
    termA 0xFFFFFFFFFFFFFFFF#64 0xFFFFFFFFFFFFFFFF#64 0xFFFFFFFFFFFFFFFF#64 = 0x0001FFFFFFFFC000#64 := by decide

/-- 95 sections 3.1 and 3.2: selectors of iteration 3 of Variant A and of iteration 7 of Variant B. -/
theorem test_key_selectors :
    keyV0 k2 0x3C6EF372FE94F82A#64 = k2.k2 ∧ keyV1A k2 0xDAA66D2C7DDF743F#64 = k2.k3 ∧
    keyV0 k2 0x5EEE15D5B2C64A70#64 = k2.k0 ∧ keyV1B k2 0x6EC06ECEA5E756D8#64 = k2.k2 := by decide

/-- 95 section 5.1, the rows of `k2` and `p2`; 70_reset_and_hazards.md R192 for the all-zero operands. -/
theorem test_commands_on_k2_p2 :
    encryptA k2 p2 = { v0 := 0x950361A9C9E61C01#64, v1 := 0x002FCEFE11AD9D54#64 } ∧
    decryptA k2 p2 = { v0 := 0xAE75E21007BB196A#64, v1 := 0xFFF0E81FC2B08D97#64 } ∧
    transformB k2 p2 64#64 = { v0 := 0x304343378310CCBD#64, v1 := 0xFA1A97AC0FE6CAB5#64 } ∧
    transformB k2 p2 (neg64 64#64) = { v0 := 0x173ADBE06839351F#64, v1 := 0xE286839A3F4D5CE3#64 } ∧
    encryptA CoreState.reset.key CoreState.reset.block =
      { v0 := 0xD21AA4256103E6D7#64, v1 := 0xDA9734E6CDF7994D#64 } := by decide +kernel

/-- 95 sections 5.2 and 5.3: `N = -2`, `2^61 + 1`, `-2^61 - 1` and `-2^63`. -/
theorem test_transform_counts :
    transformB k2 p2 0xFFFFFFFFFFFFFFFE#64 = { v0 := 0x6717952793BF6024#64, v1 := 0x36AC50B55ECCC674#64 } ∧
    transformB k2 p2 0x2000000000000001#64 = { v0 := 0x17AC793FAE9723EC#64, v1 := 0x1A6F774EB4EED872#64 } ∧
    transformB k2 p2 0xDFFFFFFFFFFFFFFF#64 = { v0 := 0xF85B8C578313A517#64, v1 := 0x78E6CB31BFA0868D#64 } ∧
    transformB k2 p2 0x8000000000000000#64 = p2 := by decide +kernel

/-! ### Commands, one step each -/

/-- R150, 95 section 7.5 row 7: `NOP` leaves everything while idle; section 7.2 row 8: while busy it records code 2. -/
theorem test_nop :
    seen (fun t => decide (t = idle)) (exec .nop idle) = some true ∧
    seen face (exec .nop busyA) = some (0x9#64, 1#4, p2.v0, p2.v1) := by decide

/-- 95 sections 4.9 and 7.2 row 2: `ENC_A` is accepted although `ERR = 1` and `DONE = 1`. -/
theorem test_encA :
    seen face (exec .encA idle) = some (0x5#64, 1#4, p2.v0, p2.v1) ∧
    seen loop (exec .encA idle) = some (false, 0#64, 0#64, 64#7) := by decide

/-- 95 sections 4.4 and 7.5 row 11. -/
theorem test_decA :
    seen face (exec .decA idle) = some (0x5#64, 2#4, p2.v0, p2.v1) ∧
    seen loop (exec .decA idle) = some (true, 0x8DDE6E5FD29F0540#64, 0#64, 64#7) := by decide

/-- 95 section 4.10. -/
theorem test_encB :
    seen face (exec .encB idle) = some (0x5#64, 3#4, p2.v0, p2.v1) ∧
    seen loop (exec .encB idle) = some (false, 0#64, 0xF4963E3CC8431A00#64, 0#7) := by decide

/-- 95 section 4.6; while busy code 2 (R173). -/
theorem test_decB :
    seen loop (exec .decB idle) = some (true, 0xF4963E3CC8431A00#64, 0#64, 0#7) ∧
    seen face (exec .decB busyA) = some (0x9#64, 1#4, p2.v0, p2.v1) := by decide

/-- 95 section 5.2: `N = 3` and `N = -3`. -/
theorem test_xfrmB_signs :
    seen face (exec .xfrmB idle) = some (0x5#64, 5#4, p2.v0, p2.v1) ∧
    seen loop (exec .xfrmB idle) = some (false, 0#64, 0x2F770AEAD9632538#64, 0#7) ∧
    seen loop (exec .xfrmB (machine (loaded k2 p2 0xFFFFFFFFFFFFFFFD#64) [])) =
      some (true, 0x2F770AEAD9632538#64, 0#64, 0#7) := by decide

/-- 95 section 5.3: `N = 0`, `2^61`, `-2^61` and `2^63 - 1`. -/
theorem test_xfrmB_large_counts :
    seen loop (exec .xfrmB (machine (loaded k2 p2 0#64) [])) = some (false, 0#64, 0#64, 0#7) ∧
    seen loop (exec .xfrmB (machine (loaded k2 p2 0x2000000000000000#64) [])) = some (false, 0#64, 0#64, 0#7) ∧
    seen loop (exec .xfrmB (machine (loaded k2 p2 0xE000000000000000#64) [])) = some (true, 0#64, 0#64, 0#7) ∧
    seen loop (exec .xfrmB (machine (loaded k2 p2 0x7FFFFFFFFFFFFFFF#64) [])) =
      some (false, 0#64, 0xF02DA7070CDEF398#64, 0#7) := by decide

/-! ### Writes -/

/-- R151: each key word on its own. -/
theorem test_write_key :
    seen (fun t => t.core.key) (exec (.wrKey0 9#64) idle) = some { k2 with k0 := 9#64 } ∧
    seen (fun t => t.core.key) (exec (.wrKey1 9#64) idle) = some { k2 with k1 := 9#64 } ∧
    seen (fun t => t.core.key) (exec (.wrKey2 9#64) idle) = some { k2 with k2 := 9#64 } ∧
    seen (fun t => t.core.key) (exec (.wrKey3 9#64) idle) = some { k2 with k3 := 9#64 } := by decide

/-- 95 section 7.3 rows 3 to 6: a key write while busy is dropped with code 3. -/
theorem test_write_key_busy :
    seen (fun t => (t.core.key, statusWord t.core)) (exec (.wrKey0 0xDEADBEEFDEADBEEF#64) busyA) = some (k2, 0xD#64) ∧
    seen (fun t => (t.core.key, statusWord t.core)) (exec (.wrKey1 0xDEADBEEFDEADBEEF#64) busyA) = some (k2, 0xD#64) ∧
    seen (fun t => (t.core.key, statusWord t.core)) (exec (.wrKey2 0xDEADBEEFDEADBEEF#64) busyA) = some (k2, 0xD#64) ∧
    seen (fun t => (t.core.key, statusWord t.core)) (exec (.wrKey3 0xDEADBEEFDEADBEEF#64) busyA) = some (k2, 0xD#64) := by
  decide

/-- 95 section 7.5 row 9: a block write leaves `DONE`; R153: `ROUNDS` takes any value. -/
theorem test_write_data :
    seen face (exec (.wrBlk0 0x1234#64) idle) = some (0x6#64, 1#4, 0x1234#64, p2.v1) ∧
    seen face (exec (.wrBlk1 0x1234#64) idle) = some (0x6#64, 1#4, p2.v0, 0x1234#64) ∧
    seen (fun t => (t.core.rounds, statusWord t.core)) (exec (.wrRounds 0x8000000000000000#64) idle) =
      some (0x8000000000000000#64, 0x6#64) := by decide

/-- 95 section 7.3 rows 7 to 9. -/
theorem test_write_data_busy :
    seen face (exec (.wrBlk0 0xDEADBEEFDEADBEEF#64) busyA) = some (0xD#64, 1#4, p2.v0, p2.v1) ∧
    seen face (exec (.wrBlk1 0xDEADBEEFDEADBEEF#64) busyA) = some (0xD#64, 1#4, p2.v0, p2.v1) ∧
    seen (fun t => (t.core.rounds, statusWord t.core)) (exec (.wrRounds 0xDEADBEEFDEADBEEF#64) busyA) =
      some (3#64, 0xD#64) := by decide

/-- 95 section 7.1 rows 1, 10, 13 from reset, and 7.2 row 10: an illegal word while busy is code 2, not 1. -/
theorem test_write_cmd_illegal :
    seen face (exec (.wrCmd 6#64) State.reset) = some (0x4#64, 0#4, 0#64, 0#64) ∧
    seen face (exec (.wrCmd 0x0000000100000001#64) State.reset) = some (0x4#64, 0#4, 0#64, 0#64) ∧
    seen face (exec (.wrCmd 0x8000000000000003#64) State.reset) = some (0x4#64, 0#4, 0#64, 0#64) ∧
    seen face (exec (.wrCmd 9#64) busyA) = some (0x9#64, 1#4, p2.v0, p2.v1) := by decide

/-- R154's example: `ROUNDS = 2`, `WR CMD, 5`. -/
theorem test_write_cmd_accepts :
    seen face (exec (.wrCmd 5#64) (machine (loaded k1 p2 2#64) [])) = some (0x1#64, 5#4, p2.v0, p2.v1) ∧
    seen loop (exec (.wrCmd 5#64) (machine (loaded k1 p2 2#64) [])) = some (false, 0#64, 0x1FA4B1F1E64218D0#64, 0#7) := by
  decide

/-- 95 section 7.7 rows 2, 4, 6: any data clears, `BUSY` stays. -/
theorem test_write_status :
    seen face (exec (.wrStatus 4#64) idle) = some (0x0#64, 1#4, p2.v0, p2.v1) ∧
    seen face (exec (.wrStatus 0xFFFFFFFFFFFFFFFF#64) busyA) = some (0x1#64, 1#4, p2.v0, p2.v1) := by decide

/-- 95 section 7.6 rows 1, 3, 11. -/
theorem test_write_reserved :
    (∀ i ∈ [Instr.wrR9 0x1234#64, .wrR10 1#64, .wrR11 1#64, .wrR12 1#64, .wrR13 1#64, .wrR14 1#64,
        .wrR15 0xFFFFFFFFFFFFFFFF#64],
      seen (fun t => decide (t = idle)) (exec i idle) = some true ∧
      seen (fun t => decide (t = busyA)) (exec i busyA) = some true) := by decide

/-! ### Reads -/

/-- 95 section 7.3 rows 10 to 12: reads while busy. -/
theorem test_reads_busy :
    seen returned (exec .rdKey0 busyA) = some ([0x0123456789ABCDEF#64], 0x1#64) ∧
    seen returned (exec .rdKey1 busyA) = some ([0xFEDCBA9876543210#64], 0x1#64) ∧
    seen returned (exec .rdKey2 busyA) = some ([0x0F1E2D3C4B5A6978#64], 0x1#64) ∧
    seen returned (exec .rdKey3 busyA) = some ([0x8796A5B4C3D2E1F0#64], 0x1#64) ∧
    seen returned (exec .rdBlk0 busyA) = some ([0x0011223344556677#64], 0x1#64) ∧
    seen returned (exec .rdBlk1 busyA) = some ([0x8899AABBCCDDEEFF#64], 0x1#64) ∧
    seen returned (exec .rdRounds busyA) = some ([3#64], 0x1#64) := by decide

/-- R160, R161: `OPR = 5` while `XFRM_B` runs; `DONE = 1` with `ERR = 1` reads 6, and a read clears nothing. -/
theorem test_reads_cmd_status :
    seen returned (exec .rdCmd busyB) = some ([5#64], 0x1#64) ∧
    seen returned (exec .rdStatus idle) = some ([0x6#64], 0x6#64) := by decide

/-- 95 section 7.6 rows 2, 4 to 9, 12. -/
theorem test_reads_reserved :
    ∀ i ∈ [Instr.rdR9, .rdR10, .rdR11, .rdR12, .rdR13, .rdR14, .rdR15],
      seen returned (exec i busyB) = some ([0#64], 0x1#64) := by decide

/-! ### The engine, reset, the clock -/

/-- 95 section 4.1: one double-round of `ENC_A` worked by hand. -/
theorem test_engine_encA :
    seen face (step (machine (startEncA (loaded k1 { v0 := 0#64, v1 := 1#64 } 0#64)) [.engine])) =
      some (0x1#64, 1#4, 0x0000000000004001#64, 0x9E3779B96F4AFC15#64) ∧
    seen loop (step (machine (startEncA (loaded k1 { v0 := 0#64, v1 := 1#64 } 0#64)) [.engine])) =
      some (false, 0x9E3779B97F4A7C15#64, 0#64, 63#7) := by decide

/-- 95 section 4.4 step 1: one double-round of `DEC_A`. -/
theorem test_engine_decA :
    seen face (step (machine
      (startDecA (loaded k1 { v0 := 0x03D122C7D2E59E74#64, v1 := 0x01EBD4C571CBF328#64 } 0#64)) [.engine])) =
        some (0x1#64, 2#4, 0xCA5B0A5C185A9D16#64, 0x408E59084B64B1A9#64) := by decide

/-- 95 section 4.2: one double-round of `ENC_B` worked by hand. -/
theorem test_engine_encB :
    seen face (step (machine (startEncB (loaded k1 { v0 := 1#64, v1 := 1#64 } 0#64)) [.engine])) =
      some (0x1#64, 3#4, 0x0000000000000012#64, 0x0FD258F8F3210D9B#64) ∧
    seen loop (step (machine (startEncB (loaded k1 { v0 := 1#64, v1 := 1#64 } 0#64)) [.engine])) =
      some (false, 0x0FD258F8F3210C68#64, 0xF4963E3CC8431A00#64, 0#7) := by decide

/-- 95 section 4.12 step 1: one inverse double-round of `XFRM_B` with `N = -3`. -/
theorem test_engine_xfrmB_inverse :
    seen face (step (machine
      (startXfrmB (loaded k2 { v0 := 0x24CEFB58CB2AF48C#64, v1 := 0x156BBFD9A6CEB8AF#64 } 0xFFFFFFFFFFFFFFFD#64))
      [.engine])) = some (0x1#64, 5#4, 0xD4B0FDAEBB5DB7D8#64, 0xBAC4C66995E2F9A8#64) := by decide

/-- 95 section 4.4 step 65: the completion step clears `SUM`, `LIMIT`, `CNT`, `DIR` and leaves the block. -/
theorem test_engine_completion :
    seen face (step (machine { startDecA (loaded k2 p2 0#64) with cnt := 0#7, sum := 0#64 } [.engine])) =
      some (0x2#64, 2#4, p2.v0, p2.v1) ∧
    seen loop (step (machine { startDecA (loaded k2 p2 0#64) with cnt := 0#7, sum := 0#64 } [.engine])) =
      some (false, 0#64, 0#64, 0#7) := by decide

/-- R163: the state the spec rules out has no step (log entry 5). -/
theorem test_engine_fault : engineStep { loaded k2 p2 0#64 with busy := true } = .error .noOperation := rfl

/-- 95 section 7.8 row 4: reset in the middle of a command. -/
theorem test_reset : seen (fun t => decide (t.core = CoreState.reset)) (step { busyB with script := [.reset] }) = some true := by
  decide

/-- 95 section 7.9: the core of its cycle 2, where the engine's step is the completion step. -/
def lastCycle (p : Pins) : State := machine (startXfrmB CoreState.reset) [.clock p]

/-- 95 section 7.9 cases 1 to 4. -/
theorem test_same_cycle_writes :
    seen face (step (lastCycle { rst := false, sel := false, we := true, idx := 7#4, wdata := 1#64 })) =
      some (0x2#64, 5#4, 0#64, 0#64) ∧
    seen face (step (lastCycle { rst := false, sel := true, we := true, idx := 7#4, wdata := 1#64 })) =
      some (0xA#64, 5#4, 0#64, 0#64) ∧
    seen face (step (lastCycle { rst := false, sel := true, we := true, idx := 8#4, wdata := 0#64 })) =
      some (0x2#64, 5#4, 0#64, 0#64) ∧
    seen face (step (lastCycle { rst := false, sel := true, we := true, idx := 4#4, wdata := 0xFF#64 })) =
      some (0xE#64, 5#4, 0#64, 0#64) := by decide

/-- 95 section 7.9 case 5 (a read sees the state before the edge), and R67: the cycle of an accept has no engine step. -/
theorem test_same_cycle_read_and_accept :
    seen returned (step (lastCycle { rst := false, sel := true, we := false, idx := 8#4, wdata := 0#64 })) =
      some ([0x1#64], 0x2#64) ∧
    seen loop (step { idle with script := [.clock { rst := false, sel := true, we := true, idx := 7#4, wdata := 1#64 }] }) =
      some (false, 0#64, 0#64, 64#7) := by decide

/-- R190: reset has priority over the cycle's transaction and its engine step. -/
theorem test_reset_cycle :
    seen (fun t => decide (t = State.reset))
      (step (lastCycle { rst := true, sel := true, we := true, idx := 0#4, wdata := 5#64 })) = some true := by decide

/-- Log entry 6: a table word of either format is the first instruction after reset. -/
theorem test_fetch_words :
    seen face (step (State.reset.withFetchWord 64 0x1)) = some (0x1#64, 1#4, 0#64, 0#64) ∧
    seen (fun t => t.core.key) (step (State.reset.withFetchWord 72 0x130000000000000001)) = some k1 := by decide

/-! ### `WAIT` and the calls (R90) -/

/-- R90: a poll that reads `BUSY = 1` puts the engine turns of its gap and the `WAIT` before the rest; one that reads 0 ends
the `WAIT`. -/
theorem test_wait_untimed :
    seen (fun t => (t.reads, t.script)) (step { busyA with script := [.wait [2, 0], .reset] }) =
      some ([1#64], [.engine, .engine, .wait [0], .reset]) ∧
    seen (fun t => (t.reads, t.script)) (step { busyA with script := [.wait []] }) = some ([1#64], [.engine, .wait []]) ∧
    seen (fun t => (t.reads, t.script)) (step { idle with script := [.wait [2], .reset] }) = some ([6#64], [.reset]) := by
  decide

/-- R67, R90: in the cycle of the completion step the poll still reads `BUSY = 1`, so the `WAIT` goes on, on an idle core. -/
theorem test_wait_completion_cycle :
    seen (fun t => (t.reads, t.script, statusWord t.core))
      (step (machine lastStepA [.waitCycles []])) = some ([1#64], [.waitCycles []], 2#64) := by decide

/-- R90: `feistelTransform` with `n = -1`, line by line; the `WAIT` of a program with no pace. -/
theorem test_call_lines :
    asTransactions [] (feistelTransform k1 { v0 := 7#64, v1 := 8#64 } (-1)) =
      [.host 0x100000000000000000#69, .host 0x110000000000000000#69, .host 0x120000000000000000#69,
       .host 0x130000000000000001#69, .host 0x140000000000000007#69, .host 0x150000000000000008#69,
       .host 0x16FFFFFFFFFFFFFFFF#69, .host 0x170000000000000005#69, .wait [],
       .host 0x040000000000000000#69, .host 0x050000000000000000#69] := by decide

/-! ### Values that meet the hypotheses of the statements

For each statement of Obligations.lean that has hypotheses: a concrete state and operands that meet them together, and,
where a statement has several clauses, one for each. -/

/-- A core that meets the invariant, running `DEC_A`, with `CNT = 0`: its last step. -/
def lastStepDecA : CoreState := { startDecA (loaded k2 p2 3#64) with sum := 0#64, cnt := 0#7 }

theorem idle_inv : idle.core.Inv where
  idle := by unfold CoreState.IdleClear; decide
  operation := by unfold CoreState.LegalOperation; decide
  flags := by unfold CoreState.FlagsExclusive; decide
  runningA := by unfold CoreState.RunningA; decide
  runningB := by unfold CoreState.RunningB; decide

theorem busyA_inv : busyA.core.Inv where
  idle := by unfold CoreState.IdleClear; decide
  operation := by unfold CoreState.LegalOperation; decide
  flags := by unfold CoreState.FlagsExclusive; decide
  runningA := by unfold CoreState.RunningA; decide
  runningB := by unfold CoreState.RunningB; decide

theorem busyB_inv : busyB.core.Inv where
  idle := by unfold CoreState.IdleClear; decide
  operation := by unfold CoreState.LegalOperation; decide
  flags := by unfold CoreState.FlagsExclusive; decide
  runningA := by unfold CoreState.RunningA; decide
  runningB := by unfold CoreState.RunningB; decide

theorem lastStepA_inv : lastStepA.Inv where
  idle := by unfold CoreState.IdleClear; decide
  operation := by unfold CoreState.LegalOperation; decide
  flags := by unfold CoreState.FlagsExclusive; decide
  runningA := by unfold CoreState.RunningA; decide
  runningB := by unfold CoreState.RunningB; decide

theorem lastStepDecA_inv : lastStepDecA.Inv where
  idle := by unfold CoreState.IdleClear; decide
  operation := by unfold CoreState.LegalOperation; decide
  flags := by unfold CoreState.FlagsExclusive; decide
  runningA := by unfold CoreState.RunningA; decide
  runningB := by unfold CoreState.RunningB; decide

theorem witness_StepRunsTheDecodedInstruction :
    (machine idle.core [.host 0x080000000000000000#69]).script = .host 0x080000000000000000#69 :: [] ∧
    (machine busyA.core [.engine]).script = .engine :: [] ∧ (machine busyA.core [.reset]).script = .reset :: [] ∧
    busyA.script = [] := by decide

theorem witness_FetchedTableWordRuns :
    decodeTableWord 64 5 = some .xfrmB ∧ decodeTableWord 72 0x1F0000000000000001 = some (.wrR15 1#64) := by decide

theorem witness_EncodeOfDecodeGivesTheWord : decodeCmd 5#64 = some .xfrmB ∧ (5#64 : Word) < 6#64 := by decide

theorem witness_ArithmeticIsModular : (0 : Nat) ≤ 63 ∧ (63 : Nat) ≤ 63 := by decide

theorem witness_DerivedConstants : (0 : Nat) < 1 ∧ 1 < Config.periodB ∧ 2 ^ 61 - 1 < Config.periodB := by decide

theorem witness_VariantBRoundTrip :
    (0x7FFFFFFFFFFFFFFF#64 : Word) ≠ 0x8000000000000000#64 ∧ (0x8000000000000001#64 : Word) ≠ 0x8000000000000000#64 := by decide

theorem witness_EffectiveCountOfTransform :
    (sint64 0x1FFFFFFFFFFFFFFF#64).natAbs < 2 ^ 61 ∧ (sint64 0xE000000000000001#64).natAbs < 2 ^ 61 := by decide

theorem witness_CounterAgreesWithSumTest :
    (lastStepA.Inv ∧ lastStepA.busy = true ∧ lastStepA.opr = 1#4 ∧ lastStepA.cnt = 0#7) ∧
    (lastStepDecA.Inv ∧ lastStepDecA.busy = true ∧ lastStepDecA.opr = 2#4 ∧ lastStepDecA.cnt = 0#7) ∧
    (busyA.core.Inv ∧ busyA.core.busy = true ∧ busyA.core.opr = 1#4 ∧ busyA.core.cnt ≠ 0#7) :=
  ⟨⟨lastStepA_inv, by decide⟩, ⟨lastStepDecA_inv, by decide⟩, ⟨busyA_inv, by decide⟩⟩

theorem witness_VariantBFirstHalfUsesKeyZero :
    busyB.core.Inv ∧ busyB.core.busy = true ∧ isVariantB busyB.core.opr = true := ⟨busyB_inv, by decide⟩

/-- For the statements whose only hypothesis is `BUSY`: `NopDoesNothingWhileIdle`, `VariantACommandsAccepted`,
`VariantBWrappersAccepted`, `CommandsDroppedWhileBusy`, `WriteKeyWord`, `WriteBlockHalf`, `WriteRounds`,
`SourceCallsVariantA`, `SourceCallsVariantB`. -/
theorem witness_idle_and_busy : idle.core.busy = false ∧ busyA.core.busy = true ∧ busyB.core.busy = true := by decide

theorem witness_TransformAcceptedBySign :
    (machine (loaded k2 p2 0#64) []).core.busy = false ∧ sint64 0#64 = 0 ∧
    (machine (loaded k2 p2 1#64) []).core.busy = false ∧ 0 < sint64 1#64 ∧
    (machine (loaded k2 p2 0x8000000000000000#64) []).core.busy = false ∧ sint64 0x8000000000000000#64 < 0 := by decide

theorem witness_CommandWordDispatch :
    busyA.core.busy = true ∧ idle.core.busy = false ∧ (5#64 : Word) < 6#64 ∧ (5#64 : Word) < 0xFFFFFFFFFFFFFFFF#64 ∧
    decodeCmd 0#64 = some .nop ∧ decodeCmd 5#64 = some .xfrmB := by decide

theorem witness_ReadsChangeNoState :
    (exec .rdR15 idle = .next (idle.returnWord 0#64) ∧ Instr.rdR15.isRead = true) ∧
    (exec (.wrR15 1#64) idle = .next (idle.withCore idle.core) ∧ (Instr.wrR15 1#64).isRead = false) := ⟨⟨rfl, rfl⟩, ⟨rfl, rfl⟩⟩

theorem witness_FirstErrorWins : busyA.core.err = 0#2 ∧ idle.core.err ≠ 0#2 := by decide

theorem witness_ErrorKeptUntilAcknowledged :
    idle.core.err ≠ 0#2 ∧ step idle = .next idle ∧
    step { idle with script := [.reset] } = .next { idle with core := CoreState.reset } := ⟨by decide, rfl, rfl⟩

theorem witness_BusyCoreIgnoresTheHost :
    busyA.core.busy = true ∧ exec (.wrStatus 0#64) busyA = .next (busyA.withCore (acknowledge busyA.core)) ∧
    exec (.wrKey0 9#64) busyA = .next (busyA.withCore (recordErr errDataWhileBusy busyA.core)) ∧
    (∀ w, Instr.wrKey0 9#64 ≠ .wrStatus w) := ⟨rfl, rfl, rfl, fun _ h => nomatch h⟩

theorem witness_OperandsFixedWhileBusy :
    busyA.core.busy = true ∧ step busyA = .next (busyA.withCore (roundA busyA.core)) ∧
    step { busyA with script := [.reset] } = .next { busyA with core := CoreState.reset } := ⟨rfl, rfl, rfl⟩

theorem witness_KeyChangedOnlyByKeyWrites :
    step { idle with script := [.host (scriptWr 0#4 9#64)] } =
      .next (idle.withCore { idle.core with key := { k2 with k0 := 9#64 } }) ∧
    ({ k2 with k0 := 9#64 } : Key) ≠ idle.core.key := ⟨rfl, by decide⟩

theorem witness_EngineStepVariantA :
    (busyA.core.busy = true ∧ busyA.core.opr = 1#4 ∧ busyA.core.cnt ≠ 0#7) ∧
    ((machine lastStepDecA []).core.busy = true ∧ (machine lastStepDecA []).core.opr = 2#4 ∧
      (machine lastStepDecA []).core.cnt = 0#7) := by decide

theorem witness_EngineStepVariantB :
    (busyB.core.busy = true ∧ busyB.core.opr = 5#4 ∧ busyB.core.sum ≠ busyB.core.limit) ∧
    ((machine (startXfrmB CoreState.reset) []).core.busy = true ∧ (machine (startXfrmB CoreState.reset) []).core.opr = 5#4 ∧
      (machine (startXfrmB CoreState.reset) []).core.sum = (machine (startXfrmB CoreState.reset) []).core.limit) := by decide

/-- A stretch of engine turns and reads: `RD STATUS`, a turn, `RD BLK0`. -/
def polls : List Event := [.host (scriptRd 8#4), .engine, .host (scriptRd 4#4)]

theorem polls_are_reads : ReadsAndEngine polls := by unfold ReadsAndEngine; decide

theorem witness_IdleCoreIsStable :
    idle.core.busy = false ∧ ({ idle with script := polls ++ [.reset] } : State).script = polls ++ [.reset] ∧
    ReadsAndEngine polls := ⟨rfl, rfl, polls_are_reads⟩

theorem witness_ClockCycleIsHostThenEngine :
    (pinsOf (scriptRd 8#4)).rst = false ∧ (pinsOf (scriptRd 8#4)).sel = true ∧
    ({ pinsOf (scriptRd 8#4) with sel := false } : Pins).sel = false ∧ busyA.core.busy = true ∧
    idle.core.busy = false := by decide

theorem witness_ResetClearsEveryElement : ({ pinsOf (scriptWr 0#4 5#64) with rst := true } : Pins).rst = true := rfl

theorem witness_StepKeepsTheInvariant :
    busyA.core.Inv ∧ step busyA = .next (busyA.withCore (roundA busyA.core)) := ⟨busyA_inv, rfl⟩

theorem witness_MachineNeverStops : idle.core.Inv ∧ busyA.core.Inv ∧ busyB.core.Inv := ⟨idle_inv, busyA_inv, busyB_inv⟩

theorem witness_EveryCommandTerminates :
    (busyB.core.Inv ∧ busyB.script = []) ∧ (busyA.core.Inv ∧ busyA.script = [] ∧ isVariantA busyA.core.opr = true) :=
  ⟨⟨busyB_inv, rfl⟩, ⟨busyA_inv, rfl, rfl⟩⟩

/-- 65 engine turns among polls. -/
def turns65 : List Event := polls ++ List.replicate 64 Event.engine

theorem turns65_are_reads : ReadsAndEngine turns65 := by unfold ReadsAndEngine; decide

/-- Each of the two words. -/
theorem witness_VariantACommandResult :
    idle.core.Inv ∧ idle.core.busy = false ∧ ((1#64 : Word) = 1#64 ∨ (1#64 : Word) = 2#64) ∧
    ((2#64 : Word) = 1#64 ∨ (2#64 : Word) = 2#64) ∧ ReadsAndEngine turns65 ∧ 65 ≤ engineTurns turns65 :=
  ⟨idle_inv, rfl, .inl rfl, .inr rfl, turns65_are_reads, by decide⟩

/-- Each of the three words, with its own count. -/
theorem witness_VariantBCommandResult :
    idle.core.Inv ∧ idle.core.busy = false ∧ ReadsAndEngine turns65 ∧
    (((3#64 : Word) = 3#64 ∨ (3#64 : Word) = 4#64 ∨ (3#64 : Word) = 5#64) ∧
      effectiveCount 64#64 < engineTurns turns65) ∧
    (((4#64 : Word) = 3#64 ∨ (4#64 : Word) = 4#64 ∨ (4#64 : Word) = 5#64) ∧
      effectiveCount (BitVec.ofInt 64 (-64)) < engineTurns turns65) ∧
    (((5#64 : Word) = 3#64 ∨ (5#64 : Word) = 4#64 ∨ (5#64 : Word) = 5#64) ∧
      effectiveCount idle.core.rounds < engineTurns turns65) :=
  ⟨idle_inv, rfl, turns65_are_reads, ⟨.inl rfl, by decide⟩, ⟨.inr (.inl rfl), by decide⟩, ⟨.inr (.inr rfl), by decide⟩⟩

/-- Three engine turns among dropped writes: the round steps of `XFRM_B` with `N = 3`. -/
def traffic3 : List Event :=
  [.host (scriptWr 0#4 9#64), .engine, .host (scriptWr 7#4 2#64), .engine, .host (scriptWr 8#4 0#64), .engine]

/-- 64 engine turns among dropped writes: the round steps of the fixed commands. -/
def traffic64 : List Event := traffic3 ++ List.replicate 61 Event.engine

/-- `XFRM_B` with `N = 3`, and the first and the last of the fixed commands. -/
theorem witness_CommandUndisturbedByTraffic :
    idle.core.busy = false ∧
    (IsCipherCommand 5#64 ∧ HostAndEngine traffic3 ∧ engineTurns traffic3 = commandRounds 5#64 idle.core) ∧
    (IsCipherCommand 1#64 ∧ IsCipherCommand 4#64 ∧ HostAndEngine traffic64 ∧
      engineTurns traffic64 = commandRounds 1#64 idle.core ∧ engineTurns traffic64 = commandRounds 4#64 idle.core) := by
  unfold HostAndEngine; decide

theorem witness_CommandBusyUntilItsStepCount :
    idle.core.busy = false ∧ IsCipherCommand 5#64 ∧ HostAndEngine traffic3 ∧
    engineTurns traffic3 ≤ commandRounds 5#64 idle.core :=
  ⟨rfl, by decide, by unfold HostAndEngine; decide, by decide⟩

theorem witness_ZeroCountIsTheIdentity : State.reset.core.busy = false ∧ State.reset.core.rounds = 0#64 := by decide

theorem witness_ResultIndependentOfHistory :
    idle.core.busy = false ∧ (machine (loaded k2 p2 3#64) []).core.busy = false ∧
    idle.core.key = (loaded k2 p2 3#64).key ∧ idle.core.block = (loaded k2 p2 3#64).block ∧
    idle.core.rounds = (loaded k2 p2 3#64).rounds ∧ idle.core ≠ loaded k2 p2 3#64 ∧ IsCipherCommand 5#64 ∧
    ReadsAndEngine polls ∧ ReadsAndEngine [.engine] ∧ engineTurns polls = engineTurns [.engine] :=
  ⟨rfl, rfl, rfl, rfl, rfl, by decide, by decide, polls_are_reads, by unfold ReadsAndEngine; decide, by decide⟩

/-- A poll that reads `BUSY = 1` and one that reads `BUSY = 0`. -/
theorem witness_WaitRepeatsWhileBusy :
    readsBusy (statusWord busyA.core) = true ∧ readsBusy (statusWord idle.core) = false := by decide

/-- An idle core, and the first and the last of the five calls. -/
theorem witness_SourceCallsUnderEveryInterleaving :
    idle.core.busy = false ∧
    let calls := [(encryptBlockA k2 p2, encryptA k2 p2), (decryptBlockA k2 p2, decryptA k2 p2),
        (encryptBlockB k2 p2, transformB k2 p2 (BitVec.ofInt 64 64)),
        (decryptBlockB k2 p2, transformB k2 p2 (BitVec.ofInt 64 (-64))),
        (feistelTransform k2 p2 (-3), transformB k2 p2 (BitVec.ofInt 64 (-3)))]
    (encryptBlockA k2 p2, encryptA k2 p2) ∈ calls ∧
    (feistelTransform k2 p2 (-3), transformB k2 p2 (BitVec.ofInt 64 (-3))) ∈ calls :=
  ⟨rfl, List.mem_cons_self, .tail _ (.tail _ (.tail _ (.tail _ (.head _))))⟩

end Sys2Proof.Tests
end

section
/-! PROOFS. The scope rules (00_scope.md): the modular arithmetic of R8, the derived constants of R6 and the signed
reading of R9. -/

namespace Sys2Proof.Laws

open Sys2Proof.Machine

/-! ### Word arithmetic (R7, R8) on numbers -/

theorem shl64_toNat (a : Word) (n : Nat) : (shl64 a n).toNat = (a.toNat * 2 ^ n) % 2 ^ 64 := by
  rw [BitVec.toNat_shiftLeft, Nat.shiftLeft_eq]

theorem shr64_toNat (a : Word) (n : Nat) : (shr64 a n).toNat = a.toNat / 2 ^ n := by
  rw [BitVec.toNat_ushiftRight, Nat.shiftRight_eq_div_pow]

/-- R7: a two-bit slice is the number shifted down by its low end, modulo 4. -/
theorem slice2_toNat (v : Word) (lo : Nat) : (slice2 v lo).toNat = v.toNat / 2 ^ lo % 4 := by
  rw [slice2, BitVec.extractLsb'_toNat, Nat.shiftRight_eq_div_pow]

/-! ### Multiples of `DELTA_B` (R6) -/

/-- R6: the multiples of `PERIOD_B`, and no other counts, take `DELTA_B` to 0. -/
theorem deltaB_mul_eq_zero_iff (p : Nat) :
    Config.deltaB * BitVec.ofNat 64 p = 0#64 ↔ Config.periodB ∣ p := by
  have h := deltaB_mul_eq_iff p 0
  rw [BitVec.mul_zero, Nat.zero_mod] at h
  exact h.trans Nat.dvd_iff_mod_eq_zero.symm

/-! ### The signed reading of a count (R9) -/

theorem sint64_eq_toInt (r : Word) : sint64 r = r.toInt :=
  (BitVec.toInt_eq_msb_cond r).symm

theorem sint64_neg_iff (r : Word) : sint64 r < 0 ↔ r.msb = true := by
  rw [sint64_eq_toInt, BitVec.msb_eq_toInt, decide_eq_true_iff]

theorem sint64_eq_zero_iff (r : Word) : sint64 r = 0 ↔ r = 0#64 := by
  rw [sint64_eq_toInt, ← BitVec.toInt_inj, BitVec.toInt_zero]

theorem sint64_pos_iff (r : Word) : 0 < sint64 r ↔ r.msb = false ∧ r ≠ 0#64 := by
  rw [← Bool.not_eq_true, ← sint64_neg_iff, ne_eq, ← sint64_eq_zero_iff]
  omega

theorem neg64_eq_neg (r : Word) : neg64 r = -r := BitVec.zero_sub r

/-- R9: negating the pattern negates the signed reading, modulo 2^64. -/
theorem neg64_eq_ofInt (r : Word) : neg64 r = BitVec.ofInt 64 (-(sint64 r)) := by
  rw [neg64_eq_neg, sint64_eq_toInt, BitVec.ofInt_neg, BitVec.ofInt_toInt]

/-! ### The statements -/

/-- Settles O8: the fixed values by evaluation, the least period by the multiples of `DELTA_B` that vanish. -/
theorem derivedConstants : Obligations.DerivedConstants := by
  refine ⟨by decide, by decide, by decide, by decide, by decide, ?period, ?least⟩
  case period => exact (deltaB_mul_eq_zero_iff _).mpr dvd_rfl
  case least =>
    intro p hpos hlt hzero
    exact Nat.not_dvd_of_pos_of_lt hpos hlt ((deltaB_mul_eq_zero_iff p).mp hzero)

/-- Settles O9: `sint64` is the library's two's complement value, and its sign tests and negation follow. -/
theorem signedCountReading : Obligations.SignedCountReading := fun r =>
  ⟨sint64_eq_toInt r, sint64_pos_iff r, sint64_neg_iff r, sint64_eq_zero_iff r, neg64_eq_ofInt r, by decide⟩

/-- Settles O7, operation by operation. -/
theorem arithmeticIsModular : Obligations.ArithmeticIsModular := by
  intro a b n _
  refine ⟨BitVec.toNat_add a b, BitVec.toNat_sub' a b, BitVec.toNat_mul a b, shl64_toNat a n,
    shr64_toNat a n, ?xor, ?low⟩
  case xor => exact fun i _ => BitVec.getLsbD_xor
  case low => rw [slice2_toNat, Nat.pow_zero, Nat.div_one]

end Sys2Proof.Laws
end

section
/-! SUPPORT. What one step of the machine can do to the core, said once (R52, R62, R67, R90, R190): every statement over
all steps is then a statement about the effect of an instruction and the effect of an engine step. -/

namespace Sys2Proof.Machine

/-- The host transaction an event carries out: the word on the port, the one a clock edge takes (none in a cycle with
`rst = 1`), or the `RD STATUS` of a poll. -/
def Event.transaction : Event → Option Instr
  | .host bus => some (decodeBus bus)
  | .engine => none
  | .reset => none
  | .clock p => if p.rst = false ∧ p.sel = true then some (decodeBus p.bus) else none
  | .wait _ => some .rdStatus
  | .waitCycles _ => some .rdStatus

/-- What an event can do to the core: reset it; nothing; its transaction's effect; an engine step; or, in a clock cycle
that begins busy, its transaction's effect and then an engine step. -/
inductive EventEffect (e : Event) (c : CoreState) : CoreState → Prop where
  | reset (he : e.isReset = true) : EventEffect e c CoreState.reset
  | same : EventEffect e c c
  | host {c' : CoreState} (i : Instr) (hi : e.transaction = some i) (hx : CoreEffect i c c') : EventEffect e c c'
  | engine {c' : CoreState} (hx : engineStep c = .ok c') : EventEffect e c c'
  | hostThenEngine {m c' : CoreState} (i : Instr) (hi : e.transaction = some i) (hb : c.busy = true)
      (hx : CoreEffect i c m) (hy : engineStep m = .ok c') : EventEffect e c c'

theorem exec_coreEffect {i : Instr} {s t : State} (h : exec i s = .next t) : CoreEffect i s.core t.core := by
  rcases exec_cases i s with ⟨_, w, hx⟩ | ⟨_, c, hx, hc⟩ <;> rw [hx] at h <;> cases h
  · exact .same
  · exact hc

theorem engineTurn_core {s t : State} (h : engineTurn s = .next t) : engineStep s.core = .ok t.core := by
  rcases engineTurn_cases s with ⟨c, hc, hx⟩ | ⟨_, hx⟩ <;> rw [hx] at h <;> cases h
  exact hc

/-- R67, R190: a clock edge. -/
theorem clockEdge_effect {p : Pins} {s t : State} (h : clockEdge p s = .next t) :
    EventEffect (.clock p) s.core t.core := by
  have carries (hr : p.rst = false) (hs : p.sel = true) : (Event.clock p).transaction = some (decodeBus p.bus) :=
    if_pos ⟨hr, hs⟩
  rcases clockEdge_cases p s with
    ⟨hr, hx⟩ | ⟨hr, hs, hb, u, hu, hx⟩ | ⟨hr, hs, _, hx⟩ | ⟨_, _, _, hx⟩ | ⟨_, _, _, hx⟩ <;> rw [hx] at h
  · cases h; exact .reset hr
  · exact .hostThenEngine _ (carries hr hs) hb (exec_coreEffect hu) (engineTurn_core h)
  · exact .host _ (carries hr hs) (exec_coreEffect h)
  · exact .engine (engineTurn_core h)
  · cases h; exact .same

/-- R62: any event. -/
theorem runEvent_effect {e : Event} {s t : State} (h : runEvent e s = .next t) : EventEffect e s.core t.core := by
  cases e with
  | host bus => exact .host _ rfl (exec_coreEffect h)
  | engine => exact .engine (engineTurn_core h)
  | reset => cases h; exact .reset rfl
  | clock p => exact clockEdge_effect h
  | wait gaps =>
    rcases waitTurn_cases gaps s with ⟨_, hx⟩ | ⟨_, hx⟩ <;> cases hx.symm.trans h <;> exact .same
  | waitCycles gaps =>
    rcases waitCycle_cases gaps s with ⟨_, c, hc, hx⟩ | ⟨_, _, hx⟩ | ⟨_, hx⟩ <;> cases hx.symm.trans h
    · exact .engine hc
    · exact .same

/-- A step is its event's effect on the core, or with nothing scripted the engine's. -/
theorem step_effect {s t : State} (h : step s = .next t) :
    (s.script = [] ∧ engineStep s.core = .ok t.core) ∨
    ∃ e rest, s.script = e :: rest ∧ EventEffect e s.core t.core := by
  cases hs : s.script with
  | nil => exact .inl ⟨rfl, engineTurn_core ((step_nil s hs).symm.trans h)⟩
  | cons e rest =>
    have hx : runEvent e { s with script := rest } = .next t := (step_cons s e rest hs).symm.trans h
    have heffect := runEvent_effect hx
    exact .inr ⟨e, rest, rfl, heffect⟩

/-- What every instruction's effect, every engine step and the reset keep, every step keeps. -/
theorem step_preserves {P : CoreState → Prop} (hreset : P CoreState.reset)
    (hhost : ∀ {i c c'}, CoreEffect i c c' → P c → P c')
    (hengine : ∀ {c c'}, engineStep c = .ok c' → P c → P c')
    {s t : State} (hP : P s.core) (h : step s = .next t) : P t.core := by
  rcases step_effect h with ⟨_, hx⟩ | ⟨_, _, _, hx⟩
  · exact hengine hx hP
  generalize t.core = c' at hx
  cases hx with
  | reset _ => exact hreset
  | same => exact hP
  | host _ _ hx => exact hhost hx hP
  | engine hx => exact hengine hx hP
  | hostThenEngine _ _ _ hx hy => exact hengine hy (hhost hx hP)

/-- R163: what an engine step leaves where it does not fault: an idle core as it is, a finished one completed, a running
one a double-round further. -/
theorem engineStep_ok_cases {c c' : CoreState} (h : engineStep c = .ok c') :
    (c.busy = false ∧ c' = c) ∨
    (c.busy = true ∧ (isVariantA c.opr = true ∧ c.cnt = 0#7 ∨ isVariantB c.opr = true ∧ c.sum = c.limit) ∧
      c' = complete c) ∨
    (c.busy = true ∧ isVariantA c.opr = true ∧ c.cnt ≠ 0#7 ∧ c' = roundA c) ∨
    (c.busy = true ∧ isVariantB c.opr = true ∧ c.sum ≠ c.limit ∧ c' = roundB c) := by
  rcases engineStep_cases c with ⟨hb, hx⟩ | ⟨hb, ha, hx⟩ | ⟨hb, _, hv, hx⟩ | ⟨_, _, _, hx⟩ <;> cases hx.symm.trans h
  · exact .inl ⟨hb, rfl⟩
  · rcases stepA_cases c with ⟨hc, hx⟩ | ⟨hc, hx⟩
    · exact .inr (.inl ⟨hb, .inl ⟨ha, hc⟩, hx⟩)
    · exact .inr (.inr (.inl ⟨hb, ha, hc, hx⟩))
  · rcases stepB_cases c with ⟨hc, hx⟩ | ⟨hc, hx⟩
    · exact .inr (.inl ⟨hb, .inr ⟨hv, hc⟩, hx⟩)
    · exact .inr (.inr (.inr ⟨hb, hv, hc, hx⟩))

end Sys2Proof.Machine
end

section
/-! PROOFS. The state (10_state.md): the invariant of the reachable states (R37, R32, R28, R26, R25, R121), who writes
`KEY` (R20, R21), and the slices of the wide registers (R21, R22, R59). -/

namespace Sys2Proof.Laws

open Sys2Proof.Machine

/-! ### The invariant at reset and while a command runs -/

/-- Settles O47: the reset core is idle with every field 0. -/
theorem resetMeetsTheInvariant : Obligations.ResetMeetsTheInvariant where
  idle := fun _ => ⟨rfl, rfl, rfl, rfl⟩
  operation := ⟨by decide, nofun, nofun⟩
  flags := nofun
  runningA := nofun
  runningB := nofun

/-- R163: `OPR` names a command of one variant only. -/
theorem isVariantB_eq_false_of_isVariantA {o : BitVec 4} (h : isVariantA o = true) : isVariantB o = false := by
  revert o; decide

theorem legal_of_isVariantA {o : BitVec 4} (h : isVariantA o = true) : o ≤ 5#4 ∧ o ≠ 0#4 := by
  revert o; decide

theorem legal_of_isVariantB {o : BitVec 4} (h : isVariantB o = true) : o ≤ 5#4 ∧ o ≠ 0#4 := by
  revert o; decide

/-- Of a core that runs a Variant A command the invariant asks the loop state of R26 and `DONE = 0`. -/
theorem inv_of_runningA {c : CoreState} (hb : c.busy = true) (hd : c.done = false) (ha : isVariantA c.opr = true)
    (hr : c.RunningA) : c.Inv where
  idle := fun hi => absurd (hb.symm.trans hi) nofun
  operation :=
    have ⟨hle, hne⟩ := legal_of_isVariantA ha
    ⟨hle, fun _ => hne, fun _ => hne⟩
  flags := fun _ => hd
  runningA := hr
  runningB := fun _ hv => absurd ((isVariantB_eq_false_of_isVariantA ha).symm.trans hv) nofun

/-- Of a core that runs a Variant B command the invariant asks the loop state of R121, R124 to R126 and `DONE = 0`. -/
theorem inv_of_runningB {c : CoreState} (hb : c.busy = true) (hd : c.done = false) (hv : isVariantB c.opr = true)
    (hr : c.RunningB) : c.Inv where
  idle := fun hi => absurd (hb.symm.trans hi) nofun
  operation :=
    have ⟨hle, hne⟩ := legal_of_isVariantB hv
    ⟨hle, fun _ => hne, fun _ => hne⟩
  flags := fun _ => hd
  runningA := fun _ ha => absurd ((isVariantB_eq_false_of_isVariantA ha).symm.trans hv) nofun
  runningB := hr

/-! ### The updates of a host transaction, and completion -/

/-- The invariant does not speak of `KEY`, `BLOCK` and `ERR`. -/
theorem inv_of_operands_replaced (k : Key) (b : Block) (e : BitVec 2) {c : CoreState} (h : c.Inv) :
    CoreState.Inv { c with key := k, block := b, err := e } :=
  ⟨h.idle, h.operation, h.flags, h.runningA, h.runningB⟩

theorem recordErr_inv (code : BitVec 2) {c : CoreState} (h : c.Inv) : (recordErr code c).Inv := by
  unfold recordErr
  split
  · exact inv_of_operands_replaced c.key c.block code h
  · exact h

/-- R155: an acknowledgement clears `DONE` and `ERR`; the invariant only limits when `DONE` may be 1. -/
theorem acknowledge_inv {c : CoreState} (h : c.Inv) : (acknowledge c).Inv where
  idle := h.idle
  operation :=
    have ⟨hle, hbusy, _⟩ := h.operation
    ⟨hle, hbusy, nofun⟩
  flags := fun _ => rfl
  runningA := h.runningA
  runningB := h.runningB

/-- R153: `ROUNDS` matters to a running Variant B command only. -/
theorem storeRounds_inv (r : Word) {c : CoreState} (hi : c.busy = false) (h : c.Inv) :
    CoreState.Inv { c with rounds := r } where
  idle := h.idle
  operation := h.operation
  flags := h.flags
  runningA := h.runningA
  runningB := fun hb => absurd (hi.symm.trans hb) nofun

/-- R163: completion returns the loop state to 0. -/
theorem complete_inv {c : CoreState} (hb : c.busy = true) (h : c.Inv) : (complete c).Inv where
  idle := fun _ => ⟨rfl, rfl, rfl, rfl⟩
  operation :=
    have ⟨hle, hbusy, _⟩ := h.operation
    ⟨hle, nofun, fun _ => hbusy hb⟩
  flags := nofun
  runningA := nofun
  runningB := nofun

/-! ### Accepting a command -/

theorem deltaB_toNat_mod_eight : Config.deltaB.toNat % 8 = 0 := by decide

/-- R121: `DELTA_B` is a multiple of 8, and so is every multiple of it modulo 2^64. -/
theorem deltaB_mul_toNat_mod_eight (x : Word) : (Config.deltaB * x).toNat % 8 = 0 := by
  rw [BitVec.toNat_mul, Nat.mod_mod_of_dvd _ (by decide : 8 ∣ 2 ^ 64), Nat.mul_mod, deltaB_toNat_mod_eight,
    Nat.zero_mul, Nat.zero_mod]

/-- R104, R105, R124 to R126: every cipher command starts in its loop state. -/
theorem started_inv {c c' : CoreState} (h : Started c c') : c'.Inv := by
  cases h with
  | encA => exact inv_of_runningA rfl rfl rfl fun _ _ => ⟨rfl, BitVec.le_refl _, rfl, rfl⟩
  | decA => exact inv_of_runningA rfl rfl rfl fun _ _ => ⟨rfl, BitVec.le_refl _, rfl, rfl⟩
  | encB => exact inv_of_runningB rfl rfl rfl fun _ _ => ⟨rfl, rfl, rfl, rfl⟩
  | decB => exact inv_of_runningB rfl rfl rfl fun _ _ => ⟨rfl, deltaB_mul_toNat_mod_eight _, rfl, rfl⟩
  | xfrmB =>
    rw [startXfrmB_eq]
    refine inv_of_runningB rfl rfl rfl fun _ _ => ⟨rfl, ?sum, rfl, rfl⟩
    case sum =>
      rw [accept_sum]
      split
      · exact deltaB_mul_toNat_mod_eight _
      · rfl

/-- R150 to R162: every instruction keeps the invariant. -/
theorem coreEffect_inv {i : Instr} {c c' : CoreState} (hx : CoreEffect i c c') (h : c.Inv) : c'.Inv := by
  cases hx with
  | same => exact h
  | error code _ => exact recordErr_inv code h
  | acknowledged _ _ => exact acknowledge_inv h
  | storedKey k _ _ => exact inv_of_operands_replaced k c.block c.err h
  | storedBlock b _ => exact inv_of_operands_replaced c.key b c.err h
  | storedRounds r hi => exact storeRounds_inv r hi h
  | accepted _ _ hs => exact started_inv hs

/-! ### A double-round of a running command -/

theorem cnt_sub_one_toNat {n : BitVec 7} (h : n ≠ 0#7) : (n - 1#7).toNat + 1 = n.toNat := by
  bv_omega

/-- R26, R102, R103: a double-round moves `SUM` by one `DELTA_A`, to the count the decremented `CNT` stands for. -/
theorem roundA_sum_eq {c : CoreState} (h0 : c.cnt ≠ 0#7) (hle : c.cnt ≤ Config.roundsA)
    (hsum : c.sum = mul64 Config.deltaA (BitVec.ofNat 64 (if c.dir then c.cnt.toNat else 64 - c.cnt.toNat))) :
    (roundA c).sum =
      mul64 Config.deltaA (BitVec.ofNat 64 (if c.dir then (c.cnt - 1#7).toNat else 64 - (c.cnt - 1#7).toNat)) := by
  have hn := cnt_sub_one_toNat h0
  have h64 : c.cnt.toNat ≤ 64 := hle
  rw [roundA_sum, hsum]
  cases c.dir
  case true =>
    simp only [if_true, ← hn, mul64, BitVec.ofNat_add, BitVec.mul_add, BitVec.mul_one, BitVec.add_sub_cancel]
  case false =>
    have hnext : 64 - (c.cnt - 1#7).toNat = 64 - c.cnt.toNat + 1 := by omega
    simp only [Bool.false_eq_true, if_false, hnext, mul64, BitVec.ofNat_add, BitVec.mul_add, BitVec.mul_one]

/-- R106: a Variant A double-round keeps the invariant. -/
theorem roundA_inv {c : CoreState} (hb : c.busy = true) (ha : isVariantA c.opr = true) (h0 : c.cnt ≠ 0#7)
    (h : c.Inv) : (roundA c).Inv := by
  obtain ⟨hlimit, hle, hdir, hsum⟩ := h.runningA hb ha
  refine inv_of_runningA hb (h.flags hb) ha fun _ _ => ⟨hlimit, ?count, hdir, roundA_sum_eq h0 hle hsum⟩
  case count =>
    have hn := cnt_sub_one_toNat h0
    have h64 : c.cnt.toNat ≤ 64 := hle
    show (c.cnt - 1#7).toNat ≤ 64
    omega

/-- R121: a double-round of Variant B keeps `SUM` a multiple of 8. -/
theorem roundB_sum_toNat_mod_eight {c : CoreState} (h : c.sum.toNat % 8 = 0) : (roundB c).sum.toNat % 8 = 0 := by
  have hd := deltaB_toNat_mod_eight
  rw [roundB_sum]
  cases c.dir
  · simp only [Bool.false_eq_true, if_false]; bv_omega
  · simp only [if_true]; bv_omega

/-- R127: a Variant B double-round keeps the invariant. -/
theorem roundB_inv {c : CoreState} (hb : c.busy = true) (hv : isVariantB c.opr = true) (h : c.Inv) :
    (roundB c).Inv := by
  obtain ⟨hcnt, hsum, hdir, hlimit⟩ := h.runningB hb hv
  exact inv_of_runningB hb (h.flags hb) hv fun _ _ => ⟨hcnt, roundB_sum_toNat_mod_eight hsum, hdir, hlimit⟩

/-- R163: an engine step keeps the invariant. -/
theorem engineStep_inv {c c' : CoreState} (hx : engineStep c = .ok c') (h : c.Inv) : c'.Inv := by
  rcases engineStep_ok_cases hx with ⟨_, rfl⟩ | ⟨hb, _, rfl⟩ | ⟨hb, ha, h0, rfl⟩ | ⟨hb, hv, _, rfl⟩
  · exact h
  · exact complete_inv hb h
  · exact roundA_inv hb ha h0 h
  · exact roundB_inv hb hv h

/-- Settles O48: the reset meets the invariant, instructions and engine steps keep it, and a step is made of these. -/
theorem stepKeepsTheInvariant : Obligations.StepKeepsTheInvariant := fun _ _ =>
  step_preserves resetMeetsTheInvariant coreEffect_inv engineStep_inv

/-! ### Who writes `KEY` (R20, R21, R151) -/

/-- R163: the engine does not write `KEY`. -/
theorem engineStep_key {c c' : CoreState} (h : engineStep c = .ok c') : c'.key = c.key := by
  rcases engineStep_ok_cases h with ⟨_, rfl⟩ | ⟨_, _, rfl⟩ | ⟨_, _, _, rfl⟩ | ⟨_, _, _, rfl⟩ <;> rfl

/-- R104, R105, R124 to R126: an accept does not write `KEY`. -/
theorem started_key {c c' : CoreState} (h : Started c c') : c'.key = c.key := by
  cases h with
  | encA => exact accept_key ..
  | decA => exact accept_key ..
  | encB => exact accept_key ..
  | decB => exact accept_key ..
  | xfrmB => rw [startXfrmB_eq, accept_key]

/-- R151: an instruction leaves `KEY` or is the write of a key word to an idle core. -/
theorem coreEffect_key {i : Instr} {c c' : CoreState} (h : CoreEffect i c c') :
    c'.key = c.key ∨
    (c.busy = false ∧ ∃ w, i = .wrKey0 w ∨ i = .wrKey1 w ∨ i = .wrKey2 w ∨ i = .wrKey3 w) := by
  cases h with
  | same => exact .inl rfl
  | error code _ => exact .inl (recordErr_key code c)
  | acknowledged _ _ => exact .inl rfl
  | storedKey _ hi hw => exact .inr ⟨hi, hw⟩
  | storedBlock _ _ => exact .inl rfl
  | storedRounds _ _ => exact .inl rfl
  | accepted _ _ hs => exact .inl (started_key hs)

theorem writesKey_of_isReset {e : Event} (h : e.isReset = true) : e.writesKey := by
  cases e with
  | reset => exact trivial
  | clock p => exact .inl h
  | _ => cases h

/-- An event whose transaction writes a key word is one that `Event.writesKey` names. -/
theorem writesKey_of_transaction {e : Event} {i : Instr} (hi : e.transaction = some i)
    (hw : ∃ w, i = .wrKey0 w ∨ i = .wrKey1 w ∨ i = .wrKey2 w ∨ i = .wrKey3 w) : e.writesKey := by
  cases e with
  | host bus => cases hi; exact hw
  | engine => cases hi
  | reset => cases hi
  | clock p =>
    obtain ⟨⟨_, hs⟩, hp⟩ := Option.ite_none_right_eq_some.mp hi
    cases hp
    exact .inr ⟨hs, hw⟩
  | wait _ => cases hi; simp at hw
  | waitCycles _ => cases hi; simp at hw

/-- An event that changes `KEY` resets the core or writes a key word while idle. -/
theorem eventEffect_key {e : Event} {c c' : CoreState} (h : EventEffect e c c') (hk : c'.key ≠ c.key) :
    e.writesKey ∧ (c.busy = false ∨ e.isReset = true) := by
  cases h with
  | reset he => exact ⟨writesKey_of_isReset he, .inr he⟩
  | same => exact absurd rfl hk
  | host i hi hx =>
    obtain ⟨hb, hw⟩ := (coreEffect_key hx).resolve_left hk
    exact ⟨writesKey_of_transaction hi hw, .inl hb⟩
  | engine hx => exact absurd (engineStep_key hx) hk
  | hostThenEngine i hi _ hx hy =>
    obtain ⟨hb, hw⟩ := (coreEffect_key hx).resolve_left fun hm => hk ((engineStep_key hy).trans hm)
    exact ⟨writesKey_of_transaction hi hw, .inl hb⟩

/-- Settles O41: the engine leaves `KEY`, so the step's event changed it. -/
theorem keyChangedOnlyByKeyWrites : Obligations.KeyChangedOnlyByKeyWrites := by
  intro s t h hk
  rcases step_effect h with ⟨_, hx⟩ | ⟨e, rest, hs, hx⟩
  · exact absurd (engineStep_key hx) hk
  · exact ⟨e, rest, hs, eventEffect_key hx hk⟩

/-! ### Slices of the wide registers (R21, R22, R59) -/

/-- R21, R59: key word `sel` is the slice `KEY[64*sel+63:64*sel]`. -/
theorem keyWord_eq_slice (k : Key) (sel : BitVec 2) : k.word sel = k.bits.extractLsb' (64 * sel.toNat) 64 := by
  unfold Key.bits
  obtain rfl | rfl | rfl | rfl : sel = 0#2 ∨ sel = 1#2 ∨ sel = 2#2 ∨ sel = 3#2 := by revert sel; decide
  case inl => exact BitVec.extractLsb'_append_eq_right.symm
  case inr.inl =>
    rw [BitVec.extractLsb'_append_eq_of_le (by decide)]
    exact BitVec.extractLsb'_append_eq_right.symm
  case inr.inr.inl =>
    rw [BitVec.extractLsb'_append_eq_of_le (by decide), BitVec.extractLsb'_append_eq_of_le (by decide)]
    exact BitVec.extractLsb'_append_eq_right.symm
  case inr.inr.inr =>
    rw [BitVec.extractLsb'_append_eq_of_le (by decide), BitVec.extractLsb'_append_eq_of_le (by decide)]
    exact BitVec.extractLsb'_append_eq_left.symm

/-- R7: a two-bit slice as the selector it is. -/
theorem slice2_eq_ofNat (v : Word) (lo : Nat) : slice2 v lo = BitVec.ofNat 2 (v.toNat / 2 ^ lo % 4) := by
  rw [← slice2_toNat, BitVec.ofNat_toNat, BitVec.setWidth_eq]

/-- Settles O10: the words of `KEY` and the halves of `BLOCK` by their places in the concatenation, the selectors by the
value of a two-bit slice. -/
theorem keyScheduleSelectsSlices : Obligations.KeyScheduleSelectsSlices := by
  refine ⟨keyWord_eq_slice, fun b => ⟨?v0, ?v1⟩, fun k sum => ⟨?selV0, ?selV1A, ?selV1B⟩⟩
  case v0 => exact BitVec.extractLsb'_append_eq_right.symm
  case v1 => exact BitVec.extractLsb'_append_eq_left.symm
  case selV0 => rw [keyV0, Config.selV0, slice2_eq_ofNat, Nat.pow_zero, Nat.div_one]
  case selV1A => rw [keyV1A, Config.selV1A, slice2_eq_ofNat]
  case selV1B => rw [keyV1B, Config.selV1B, slice2_eq_ofNat]

end Sys2Proof.Laws
end

section
/-! SUPPORT. Steps and runs by the event at the head of the script (R52, R62, R67): a scripted event, a read, an idle
engine's turn, and a clock cycle as the run of its two parts. -/

namespace Sys2Proof.Machine

/-- R62: the event at the head of the script runs on the state whose script is the rest. -/
theorem step_scripted (s : State) (e : Event) (rest : List Event) :
    step { s with script := e :: rest } = runEvent e { s with script := rest } :=
  step_cons _ e rest rfl

/-- A run of one step. -/
theorem run_one (s : State) : run 1 s = step s := by
  unfold run
  cases step s <;> rfl

/-- R52: an instruction leaves the host's script. -/
theorem exec_keeps_script {i : Instr} {s t : State} (h : exec i s = .next t) : t.script = s.script := by
  rcases exec_cases i s with ⟨_, w, hx⟩ | ⟨_, c, hx, _⟩ <;> cases hx.symm.trans h <;> rfl

/-- R58: a read returns one word and changes nothing else. -/
theorem exec_of_isRead {i : Instr} (hi : i.isRead = true) (s : State) : ∃ w, exec i s = .next (s.returnWord w) := by
  rcases exec_cases i s with ⟨_, h⟩ | ⟨hn, _⟩
  · exact h
  · exact absurd (hi.symm.trans hn) nofun

/-- R52: an instruction that is no read returns no word. -/
theorem exec_of_not_isRead {i : Instr} (hi : i.isRead = false) (s : State) : ∃ c, exec i s = .next (s.withCore c) := by
  rcases exec_cases i s with ⟨hn, _⟩ | ⟨_, c, h, _⟩
  · exact absurd (hi.symm.trans hn) nofun
  · exact ⟨c, h⟩

/-- R163, R37: the turn of an idle engine changes nothing. -/
theorem engineTurn_idle {s : State} (hb : s.core.busy = false) : engineTurn s = .next s := by
  rw [engineTurn, engineStep_idle s.core hb]
  rfl

/-- A turn in which the engine takes its step. -/
theorem engineTurn_ok {s : State} {c : CoreState} (hc : engineStep s.core = .ok c) :
    engineTurn s = .next (s.withCore c) := by
  rw [engineTurn, hc]

/-- R52, R62: a host transaction and then the engine's turn, as two steps. -/
theorem run_host_engine {s t : State} {bus : BitVec 69} {rest : List Event}
    (h : hostTurn bus { s with script := rest } = .next t) :
    run 2 { s with script := .host bus :: .engine :: rest } = engineTurn t := by
  have hscript : t.script = rest := exec_keeps_script h
  have hhost : step { s with script := .host bus :: .engine :: rest } = .next { t with script := .engine :: rest } :=
    (step_scripted s (.host bus) (.engine :: rest)).trans (exec_script _ { s with script := rest } t (.engine :: rest) h)
  calc run 2 { s with script := .host bus :: .engine :: rest }
      = run 1 { t with script := .engine :: rest } := run_succ _ _ _ hhost
    _ = step { t with script := .engine :: rest } := run_one _
    _ = engineTurn { t with script := rest } := step_scripted t .engine rest
    _ = engineTurn t := by rw [← hscript]

/-- R52, R58: a host transaction completes. -/
theorem hostTurn_total (bus : BitVec 69) (s : State) : ∃ t, hostTurn bus s = .next t := by
  rcases exec_cases (decodeBus bus) s with ⟨_, w, h⟩ | ⟨_, c, h, _⟩ <;> exact ⟨_, h⟩

/-! ### A clock edge without reset (R67), by `sel` and `BUSY` -/

theorem clockEdge_busy_selected {p : Pins} {s t : State} (hr : p.rst = false) (hs : p.sel = true)
    (hb : s.core.busy = true) (ht : hostTurn p.bus s = .next t) : clockEdge p s = engineTurn t := by
  simp [clockEdge, hr, hs, hb, ht]

theorem clockEdge_idle_selected {p : Pins} {s : State} (hr : p.rst = false) (hs : p.sel = true)
    (hb : s.core.busy = false) : clockEdge p s = hostTurn p.bus s := by
  simp [clockEdge, hr, hs, hb]

theorem clockEdge_busy_unselected {p : Pins} {s : State} (hr : p.rst = false) (hs : p.sel = false)
    (hb : s.core.busy = true) : clockEdge p s = engineTurn s := by
  simp [clockEdge, hr, hs, hb]

theorem clockEdge_idle_unselected {p : Pins} {s : State} (hr : p.rst = false) (hs : p.sel = false)
    (hb : s.core.busy = false) : clockEdge p s = .next s := by
  simp [clockEdge, hr, hs, hb]

end Sys2Proof.Machine
end

section
/-! PROOFS. The port and the interleaving of host and engine (20_memory.md): what a step runs (R62), reads (R58), the
operands of a running command and the idle core (R63), the clock (R67), and the end of every command (R68). -/

namespace Sys2Proof.Laws

open Sys2Proof.Machine

/-! ### A step and its event (R52, R62) -/

/-- Settles O5: each clause is the event at the head of the script, or the empty script. -/
theorem stepRunsTheDecodedInstruction : Obligations.StepRunsTheDecodedInstruction := fun s rest =>
  ⟨fun bus => step_cons s (.host bus) rest, step_cons s .engine rest, step_cons s .reset rest, step_nil s⟩

/-- Settles O36: a read and any other instruction, each by what it answers. -/
theorem readsChangeNoState : Obligations.ReadsChangeNoState := by
  intro i s t h
  refine ⟨exec_keeps_script h, fun hi => ?read, fun hi => ?other⟩
  case read =>
    obtain ⟨w, hx⟩ := exec_of_isRead hi s
    cases hx.symm.trans h
    exact ⟨rfl, w, rfl⟩
  case other =>
    obtain ⟨c, hx⟩ := exec_of_not_isRead hi s
    cases hx.symm.trans h
    rfl

/-! ### The operands of a running command (R63 (b), R164) -/

/-- `KEY`, `ROUNDS` and `OPR` are as they were. -/
def SameOperands (c c' : CoreState) : Prop := c'.key = c.key ∧ c'.rounds = c.rounds ∧ c'.opr = c.opr

theorem SameOperands.trans {a b c : CoreState} (h : SameOperands a b) (h' : SameOperands b c) : SameOperands a c :=
  have ⟨hk, hr, ho⟩ := h
  have ⟨hk', hr', ho'⟩ := h'
  ⟨hk'.trans hk, hr'.trans hr, ho'.trans ho⟩

/-- R163: the engine does not write the operands. -/
theorem engineStep_operands {c c' : CoreState} (h : engineStep c = .ok c') : SameOperands c c' := by
  rcases engineStep_ok_cases h with ⟨_, rfl⟩ | ⟨_, _, rfl⟩ | ⟨_, _, _, rfl⟩ | ⟨_, _, _, rfl⟩ <;> exact ⟨rfl, rfl, rfl⟩

/-- R151 to R154, R173: no transaction changes the operands of a running command: the effects that store or accept need an
idle core. -/
theorem coreEffect_operands {i : Instr} {c c' : CoreState} (hb : c.busy = true) (h : CoreEffect i c c') :
    SameOperands c c' := by
  cases h with
  | same => exact ⟨rfl, rfl, rfl⟩
  | error code _ => exact ⟨recordErr_key code c, recordErr_rounds code c, recordErr_opr code c⟩
  | acknowledged _ _ => exact ⟨rfl, rfl, rfl⟩
  | storedKey _ hi _ => exact absurd (hb.symm.trans hi) nofun
  | storedBlock _ hi => exact absurd (hb.symm.trans hi) nofun
  | storedRounds _ hi => exact absurd (hb.symm.trans hi) nofun
  | accepted _ hi _ => exact absurd (hb.symm.trans hi) nofun

/-- R63 (b): an event keeps the operands of a running command or resets the core. -/
theorem eventEffect_operands {e : Event} {c c' : CoreState} (hb : c.busy = true) (h : EventEffect e c c') :
    SameOperands c c' ∨ e.isReset = true := by
  cases h with
  | reset he => exact .inr he
  | same => exact .inl ⟨rfl, rfl, rfl⟩
  | host _ _ hx => exact .inl (coreEffect_operands hb hx)
  | engine hx => exact .inl (engineStep_operands hx)
  | hostThenEngine _ _ _ hx hy => exact .inl ((coreEffect_operands hb hx).trans (engineStep_operands hy))

/-- Settles O40: the engine keeps the operands always, an event while busy unless it is a reset. -/
theorem operandsFixedWhileBusy : Obligations.OperandsFixedWhileBusy := by
  intro s t hb h
  rcases step_effect h with ⟨_, hx⟩ | ⟨e, rest, hs, hx⟩
  · exact .inl (engineStep_operands hx)
  · exact (eventEffect_operands hb hx).imp_right fun he => ⟨e, rest, hs, he⟩

/-! ### The idle core (R37, R63 (c)) -/

/-- R63 (c): an engine turn or a read leaves an idle core as it is. -/
theorem step_idle {s : State} {e : Event} {rest : List Event} (hb : s.core.busy = false) (hs : s.script = e :: rest)
    (he : e.isEngine = true ∨ e.isRead = true) : ∃ t, step s = .next t ∧ t.core = s.core ∧ t.script = rest := by
  rw [step_cons s e rest hs]
  cases e with
  | host bus =>
    have hread : (decodeBus bus).isRead = true := he.resolve_left nofun
    obtain ⟨w, hx⟩ := exec_of_isRead hread { s with script := rest }
    exact ⟨_, hx, rfl, rfl⟩
  | engine => exact ⟨_, engineTurn_idle (s := { s with script := rest }) hb, rfl, rfl⟩
  | _ => simp [Event.isEngine, Event.isRead] at he

/-- Settles O44, by induction on the stretch. -/
theorem idleCoreIsStable : Obligations.IdleCoreIsStable := by
  intro s es rest hb hs hes
  induction es generalizing s with
  | nil => exact ⟨s, rfl, rfl, hs⟩
  | cons e es ih =>
    obtain ⟨he, hes⟩ := List.forall_mem_cons.mp hes
    obtain ⟨u, hstep, hcore, hscript⟩ := step_idle hb hs he
    obtain ⟨t, hrun, ht, hrest⟩ := ih u (hcore ▸ hb) hscript hes
    exact ⟨t, (run_succ _ s u hstep).trans hrun, ht.trans hcore, hrest⟩

/-! ### The clock (R67) -/

/-- Settles O45: the edge of each clause, and the run of the events that clause puts in its place. -/
theorem clockCycleIsHostThenEngine : Obligations.ClockCycleIsHostThenEngine := by
  intro s p rest hr cycle bus
  have hcycle : cycle = clockEdge p { s with script := rest } := step_scripted s (.clock p) rest
  refine ⟨fun hs hb => ?hostThenEngine, fun hs hb => ?host, fun hs hb => ?engine, fun hs hb => ?nothing⟩
  case hostThenEngine =>
    obtain ⟨t, ht⟩ := hostTurn_total bus { s with script := rest }
    calc cycle = engineTurn t := hcycle.trans (clockEdge_busy_selected hr hs hb ht)
      _ = run 2 { s with script := .host bus :: .engine :: rest } := (run_host_engine ht).symm
  case host =>
    calc cycle = hostTurn bus { s with script := rest } := hcycle.trans (clockEdge_idle_selected hr hs hb)
      _ = step { s with script := .host bus :: rest } := (step_scripted s (.host bus) rest).symm
  case engine =>
    calc cycle = engineTurn { s with script := rest } := hcycle.trans (clockEdge_busy_unselected hr hs hb)
      _ = step { s with script := .engine :: rest } := (step_scripted s .engine rest).symm
  case nothing => exact hcycle.trans (clockEdge_idle_unselected hr hs hb)

/-! ### The end of every command (R68, R106, R132) -/

/-- R163: the legal operations of a running core are those of the two variants. -/
theorem isVariant_of_legal {o : BitVec 4} (hle : o ≤ 5#4) (hne : o ≠ 0#4) :
    isVariantA o = true ∨ isVariantB o = true := by
  revert o; decide

/-- R121, R132: `DELTA_B / 8` is odd, so every multiple of 8 is `DELTA_B` times a count below `PERIOD_B`. -/
theorem exists_deltaB_mul_eq {x : Word} (h : x.toNat % 8 = 0) :
    ∃ n < 2 ^ 61, Config.deltaB * BitVec.ofNat 64 n = x := by
  obtain ⟨q, hq⟩ := Nat.dvd_of_mod_eq_zero h
  have hinverse : Config.deltaB * 1009363220838287685#64 = 8#64 := by decide
  refine ⟨1009363220838287685 * q % 2 ^ 61, Nat.mod_lt _ (by decide), ?_⟩
  calc Config.deltaB * BitVec.ofNat 64 (1009363220838287685 * q % 2 ^ 61)
      = Config.deltaB * BitVec.ofNat 64 (1009363220838287685 * q) := (deltaB_mul_eq_iff _ _).mpr (Nat.mod_mod _ _)
    _ = 8#64 * BitVec.ofNat 64 q := by rw [BitVec.ofNat_mul, ← BitVec.mul_assoc, hinverse]
    _ = x := by rw [← BitVec.ofNat_mul, ← hq, BitVec.ofNat_toNat, BitVec.setWidth_eq]

/-- The core runs a command that meets its end test after at most `n` more double-rounds: `CNT` counts them in Variant A;
in Variant B they take `SUM` to `LIMIT`. -/
inductive RoundsLeft (c : CoreState) (n : Nat) : Prop where
  | variantA (hb : c.busy = true) (ha : isVariantA c.opr = true) (hn : c.cnt.toNat ≤ n)
  | variantB (hb : c.busy = true) (ha : isVariantA c.opr = false) (hv : isVariantB c.opr = true)
      (hl : c.limit = if c.dir then c.sum - Config.deltaB * BitVec.ofNat 64 n
        else c.sum + Config.deltaB * BitVec.ofNat 64 n)

/-- R26, R121: a running command in a reachable state has at most 64 double-rounds left in Variant A, fewer than
`PERIOD_B` in Variant B. -/
theorem exists_roundsLeft {c : CoreState} (hb : c.busy = true) (h : c.Inv) :
    ∃ n < 2 ^ 61, (isVariantA c.opr = true → n ≤ 64) ∧ RoundsLeft c n := by
  cases ha : isVariantA c.opr
  case true =>
    obtain ⟨_, hle, _⟩ := h.runningA hb ha
    have hcnt : c.cnt.toNat ≤ 64 := hle
    exact ⟨64, by decide, fun _ => le_rfl, .variantA hb ha hcnt⟩
  case false =>
    obtain ⟨hle, hne, _⟩ := h.operation
    have hv : isVariantB c.opr = true := (isVariant_of_legal hle (hne hb)).resolve_left (ne_true_of_eq_false ha)
    obtain ⟨_, hsum, _, hlimit⟩ := h.runningB hb hv
    have hlimit8 : c.limit.toNat % 8 = 0 := by
      rw [hlimit]
      split
      · rfl
      split <;> exact deltaB_mul_toNat_mod_eight _
    have hfar : (if c.dir then c.sum - c.limit else c.limit - c.sum).toNat % 8 = 0 := by
      split <;> bv_omega
    obtain ⟨n, hn, hmul⟩ := exists_deltaB_mul_eq hfar
    refine ⟨n, hn, nofun, .variantB hb ha hv ?_⟩
    rw [hmul]
    cases c.dir
    case false => simp only [Bool.false_eq_true, if_false]; ring
    case true => simp only [if_true]; ring

/-- R106, R127: an engine step of a running command completes it or leaves one double-round less. -/
theorem engineStep_of_roundsLeft {c : CoreState} {n : Nat} (h : RoundsLeft c n) :
    ∃ c', engineStep c = .ok c' ∧ (c'.busy = false ∨ ∃ m, n = m + 1 ∧ RoundsLeft c' m) := by
  cases h with
  | variantA hb ha hn =>
    by_cases h0 : c.cnt = 0#7
    · exact ⟨_, engineStep_completeA c hb ha h0, .inl rfl⟩
    · have hcnt : (c.cnt - 1#7).toNat + 1 = c.cnt.toNat := cnt_sub_one_toNat h0
      obtain ⟨m, rfl⟩ : ∃ m, n = m + 1 := ⟨n - 1, by omega⟩
      have hm : (c.cnt - 1#7).toNat ≤ m := by omega
      exact ⟨_, engineStep_roundA c hb ha h0, .inr ⟨m, rfl, .variantA hb ha hm⟩⟩
  | variantB hb ha hv hl =>
    by_cases he : c.sum = c.limit
    · exact ⟨_, engineStep_completeB c hb ha hv he, .inl rfl⟩
    · cases n with
      | zero => exact absurd (by simpa using hl.symm) he
      | succ m =>
        refine ⟨_, engineStep_roundB c hb ha hv he, .inr ⟨m, rfl, .variantB hb ha hv ?_⟩⟩
        rw [roundB_limit, roundB_dir, roundB_sum, hl, BitVec.ofNat_add, BitVec.mul_add, BitVec.mul_one]
        cases c.dir
        case false => simp only [Bool.false_eq_true, if_false]; ring
        case true => simp only [if_true]; ring

/-- R68: with nothing scripted the engine does the double-rounds left and then the completion step. -/
theorem run_of_roundsLeft {n : Nat} {s : State} (hs : s.script = []) (h : RoundsLeft s.core n) :
    ∃ k t, run k s = .next t ∧ t.core.busy = false ∧ k ≤ n + 1 := by
  induction n using Nat.strong_induction_on generalizing s with
  | _ n ih =>
    obtain ⟨c, hc, hdone⟩ := engineStep_of_roundsLeft h
    have hstep : step s = .next (s.withCore c) := (step_nil s hs).trans (engineTurn_ok hc)
    rcases hdone with hidle | ⟨m, rfl, hleft⟩
    · exact ⟨1, _, (run_one s).trans hstep, hidle, by omega⟩
    · obtain ⟨k, t, hrun, hidle, hk⟩ := ih m m.lt_succ_self (s := s.withCore c) hs hleft
      exact ⟨k + 1, t, (run_succ k _ _ hstep).trans hrun, hidle, by omega⟩

/-- Settles O50: an idle state takes no step, a busy one its double-rounds and the completion. -/
theorem everyCommandTerminates : Obligations.EveryCommandTerminates := by
  intro s hinv hs
  cases hb : s.core.busy
  case false => exact ⟨0, s, rfl, hb, Nat.zero_le _, fun _ => Nat.zero_le _⟩
  case true =>
    obtain ⟨n, hn, hA, hleft⟩ := exists_roundsLeft hb hinv
    obtain ⟨k, t, hrun, hidle, hk⟩ := run_of_roundsLeft hs hleft
    exact ⟨k, t, hrun, hidle, by omega, fun ha => by have := hA ha; omega⟩

end Sys2Proof.Laws
end

section
/-! PROOFS. The encodings (30_encoding.md R80 to R87): which byte strings decode, the round trip both ways, and the step
that runs a placed table word. -/

namespace Sys2Proof.Laws

open Sys2Proof.Machine

/-! ### The number a byte string stands for (R56) -/

theorem fromBytes_lt (bs : List Byte) : fromBytes bs < 256 ^ bs.length := by
  induction bs with
  | nil => decide
  | cons b bs ih =>
    rw [fromBytes, List.length_cons, pow_succ]
    have := b.isLt
    omega

theorem fromBytes_append (bs cs : List Byte) :
    fromBytes (bs ++ cs) = fromBytes bs + 256 ^ bs.length * fromBytes cs := by
  induction bs with
  | nil => simp [fromBytes]
  | cons b bs ih =>
    rw [List.cons_append, fromBytes, ih, fromBytes, List.length_cons, pow_succ]
    ring

theorem fromBytes_eq_zero_iff (bs : List Byte) : fromBytes bs = 0 ↔ bs.all (· == 0#8) = true := by
  induction bs with
  | nil => simp [fromBytes]
  | cons b bs ih =>
    rw [List.all_cons, Bool.and_eq_true, ← ih, fromBytes, beq_iff_eq, ← BitVec.toNat_inj]
    simp

/-- R82, R85: a command word is legal by its number: the low byte at most 5, the others 0. -/
theorem fromBytes_le_five_iff (b : Byte) (bs : List Byte) :
    fromBytes (b :: bs) ≤ 5 ↔ bs.all (· == 0#8) = true ∧ b ≤ 5#8 := by
  rw [← fromBytes_eq_zero_iff, fromBytes, BitVec.le_def, BitVec.toNat_ofNat]
  omega

/-- R80, R81: nine bytes hold at most 69 bits exactly when the last byte is below 32. -/
theorem fromBytes_lt_transaction_iff (bs : List Byte) (b : Byte) (h : bs.length = 8) :
    fromBytes (bs ++ [b]) < 2 ^ 69 ↔ b < 32#8 := by
  have hlow : fromBytes bs < 256 ^ bs.length := fromBytes_lt bs
  rw [fromBytes_append, h, BitVec.lt_def, BitVec.toNat_ofNat]
  rw [h] at hlow
  simp only [fromBytes]
  omega

/-! ### What decodes (R80, R82, R85) -/

theorem exists_decodeCmd_iff (w : Word) : (∃ i, decodeCmd w = some i) ↔ w ≤ 5#64 := by
  rw [← Option.isSome_iff_exists, decodeCmd_isSome, decide_eq_true_iff]

/-- R82: eight bytes decode as the command word they hold. -/
theorem decode_command_iff {bs : List Byte} (h : bs.length = 8) (i : Instr) :
    decode bs = .ok i ↔ decodeCmd (BitVec.ofNat 64 (fromBytes bs)) = some i := by
  rw [decode, if_pos h]
  cases decodeCmd (BitVec.ofNat 64 (fromBytes bs)) <;> simp

/-- R80, R81: nine bytes decode as the transaction they hold, if they hold no more than 69 bits. -/
theorem decode_transaction_iff {bs : List Byte} (h : bs.length = 9) (i : Instr) :
    decode bs = .ok i ↔ fromBytes bs < 2 ^ 69 ∧ decodeBus (BitVec.ofNat 69 (fromBytes bs)) = i := by
  rw [decode, if_neg (by omega), if_pos h]
  split <;> simp_all

theorem decode_wrong_length {bs : List Byte} (h8 : bs.length ≠ 8) (h9 : bs.length ≠ 9) (i : Instr) :
    decode bs ≠ .ok i := by
  rw [decode, if_neg h8, if_neg h9]
  exact nofun

theorem wellFormedBytes_command_iff {bs : List Byte} (h : bs.length = 8) :
    wellFormedBytes bs = true ↔ fromBytes bs ≤ 5 := by
  obtain ⟨b, bs, rfl⟩ := List.exists_cons_of_length_eq_add_one h
  rw [fromBytes_le_five_iff]
  simp [wellFormedBytes, encodingLengthOk, commandBytesOk, transactionBytesOk, h]

theorem wellFormedBytes_transaction_iff {bs : List Byte} (h : bs.length = 9) :
    wellFormedBytes bs = true ↔ fromBytes bs < 2 ^ 69 := by
  obtain ⟨bs, b, rfl⟩ : ∃ cs b, bs = cs ++ [b] :=
    ⟨_, _, (List.dropLast_concat_getLast (List.ne_nil_of_length_eq_add_one h)).symm⟩
  have h8 : bs.length = 8 := by simpa using h
  rw [fromBytes_lt_transaction_iff bs b h8]
  simp [wellFormedBytes, encodingLengthOk, commandBytesOk, transactionBytesOk, h8]

/-- Settles O2: by the length of the string, each format by the number it holds. -/
theorem decodeAcceptsExactlyWellFormed : Obligations.DecodeAcceptsExactlyWellFormed := by
  intro bs
  by_cases h8 : bs.length = 8
  · have hlt : fromBytes bs < 256 ^ bs.length := fromBytes_lt bs
    rw [h8] at hlt
    have hle : BitVec.ofNat 64 (fromBytes bs) ≤ 5#64 ↔ fromBytes bs ≤ 5 := by
      rw [BitVec.le_def, BitVec.toNat_ofNat, BitVec.toNat_ofNat]
      omega
    simp only [decode_command_iff h8, exists_decodeCmd_iff, hle, wellFormedBytes_command_iff h8]
  by_cases h9 : bs.length = 9
  · simp [decode_transaction_iff h9, wellFormedBytes_transaction_iff h9]
  · simp [decode_wrong_length h8 h9, wellFormedBytes, encodingLengthOk, h8, h9]

/-! ### The round trip (R81, R83) -/

/-- R80: the instruction an encoded word stands for, each format by its own decoder. -/
def decodeEncoded : Encoded → Option Instr
  | .cmd w => decodeCmd w
  | .bus b => some (decodeBus b)

/-- R80: the bytes of an encoded word. -/
def encodedBytes : Encoded → List Byte
  | .cmd w => toBytes 8 w.toNat
  | .bus b => toBytes 9 b.toNat

theorem encode_eq_encodedBytes (i : Instr) : encode i = encodedBytes (encodeWord i) := by
  unfold encode
  cases encodeWord i <;> rfl

/-- R81, R83: the word of an instruction stands for that instruction, row by row. -/
theorem decodeEncoded_encodeWord (i : Instr) : decodeEncoded (encodeWord i) = some i := by
  have write (idx : BitVec 4) (w : Word) : some (decodeBus (busWord true idx w)) = some (decodeWrite idx w) :=
    congrArg some (decodeBus_write idx w)
  have read (idx : BitVec 4) : some (decodeBus (busWord false idx 0#64)) = some (decodeRead idx) :=
    congrArg some (decodeBus_read idx 0#64)
  cases i
  case nop | encA | decA | encB | decB | xfrmB => rfl
  case wrKey0 w | wrKey1 w | wrKey2 w | wrKey3 w | wrBlk0 w | wrBlk1 w | wrRounds w | wrCmd w | wrStatus w | wrR9 w
      | wrR10 w | wrR11 w | wrR12 w | wrR13 w | wrR14 w | wrR15 w => exact write _ w
  all_goals exact read _

/-- R56, R80: the byte decoder on the bytes of a word that stands for an instruction. -/
theorem decode_encodedBytes {e : Encoded} {i : Instr} (h : decodeEncoded e = some i) :
    decode (encodedBytes e) = .ok i := by
  cases e with
  | cmd w =>
    have hw : fromBytes (toBytes 8 w.toNat) = w.toNat := (fromBytes_toBytes 8 _).trans (Nat.mod_eq_of_lt w.isLt)
    rw [encodedBytes, decode_command_iff (toBytes_length ..), hw, BitVec.ofNat_toNat, BitVec.setWidth_eq]
    exact h
  | bus b =>
    have hlt := b.isLt
    have hb : fromBytes (toBytes 9 b.toNat) = b.toNat := (fromBytes_toBytes 9 _).trans (Nat.mod_eq_of_lt (by omega))
    rw [encodedBytes, decode_transaction_iff (toBytes_length ..), hb, BitVec.ofNat_toNat, BitVec.setWidth_eq]
    exact ⟨hlt, Option.some.inj h⟩

theorem decode_encode (i : Instr) : decode (encode i) = .ok i := by
  rw [encode_eq_encodedBytes]
  exact decode_encodedBytes (decodeEncoded_encodeWord i)

theorem wellFormed_eq_true (i : Instr) : i.wellFormed = true := by
  cases i <;> rfl

/-- Settles O1: the round trip row by row, and bytes that decode are well formed. -/
theorem decodeOfEncodeIsIdentity : Obligations.DecodeOfEncodeIsIdentity := fun i =>
  ⟨wellFormed_eq_true i, (decodeAcceptsExactlyWellFormed (encode i)).mp ⟨i, decode_encode i⟩, decode_encode i⟩

/-- R81: a write is encoded as the word it came from, a read with its data field 0. -/
theorem encodeWord_decodeBus (b : BitVec 69) :
    encodeWord (decodeBus b) = .bus (if busWe b then b else busWord false (busIdx b) 0#64) := by
  unfold decodeBus
  cases hw : busWe b
  case false => exact encodeWord_decodeRead (busIdx b)
  case true =>
    have hb : busWord true (busIdx b) (busData b) = b := hw ▸ busWord_fields b
    simp only [if_true, encodeWord_decodeWrite, hb]

/-- R83: the six legal command words and their instructions. -/
theorem decodeCmd_eq_some_iff (w : Word) (i : Instr) : decodeCmd w = some i ↔
    (w = 0#64 ∧ i = .nop) ∨ (w = 1#64 ∧ i = .encA) ∨ (w = 2#64 ∧ i = .decA) ∨ (w = 3#64 ∧ i = .encB) ∨
    (w = 4#64 ∧ i = .decB) ∨ (w = 5#64 ∧ i = .xfrmB) := by
  constructor
  · intro h
    unfold decodeCmd at h
    split at h <;> cases h <;> simp
  · rintro (⟨rfl, rfl⟩ | ⟨rfl, rfl⟩ | ⟨rfl, rfl⟩ | ⟨rfl, rfl⟩ | ⟨rfl, rfl⟩ | ⟨rfl, rfl⟩) <;> rfl

theorem encodeWord_of_decodeCmd {w : Word} {i : Instr} (h : decodeCmd w = some i) : encodeWord i = .cmd w := by
  rcases (decodeCmd_eq_some_iff w i).mp h with
    ⟨rfl, rfl⟩ | ⟨rfl, rfl⟩ | ⟨rfl, rfl⟩ | ⟨rfl, rfl⟩ | ⟨rfl, rfl⟩ | ⟨rfl, rfl⟩ <;> rfl

theorem decodeCmd_eq_none_iff (w : Word) : decodeCmd w = none ↔ 5#64 < w := by
  rw [← Option.not_isSome_iff_eq_none, decodeCmd_isSome, decide_eq_true_iff, BitVec.not_le]

/-- Settles O3: transactions, legal command words and illegal ones. -/
theorem encodeOfDecodeGivesTheWord : Obligations.EncodeOfDecodeGivesTheWord :=
  ⟨encodeWord_decodeBus, fun _ _ => encodeWord_of_decodeCmd, decodeCmd_eq_none_iff⟩

/-! ### A table word placed by `withFetchWord` (R80, R82) -/

/-- R154: a legal command word written to `CMD` is the command, idle or busy. -/
theorem exec_wrCmd_of_decodeCmd {w : Word} {i : Instr} (h : decodeCmd w = some i) (s : State) :
    exec (.wrCmd w) s = exec i s := by
  have present {start : CoreState → CoreState} (hw : ∀ c, dispatchCommand w c = start c) :
      execWrCmd w s = .next (s.withCore (presentCommand start s.core)) := by
    rw [execWrCmd, funext hw]
  rcases (decodeCmd_eq_some_iff w i).mp h with
    ⟨rfl, rfl⟩ | ⟨rfl, rfl⟩ | ⟨rfl, rfl⟩ | ⟨rfl, rfl⟩ | ⟨rfl, rfl⟩ | ⟨rfl, rfl⟩
  · exact present dispatchCommand_nop
  · exact present dispatchCommand_encA
  · exact present dispatchCommand_decA
  · exact present dispatchCommand_encB
  · exact present dispatchCommand_decB
  · exact present dispatchCommand_xfrmB

theorem decodeTableWord_eq_some_iff (nbits w : Nat) (i : Instr) :
    decodeTableWord nbits w = some i ↔ decode (toBytes ((nbits + 7) / 8) w) = .ok i := by
  unfold decodeTableWord
  cases decode (toBytes ((nbits + 7) / 8) w) <;> simp

/-- R80, R82: a table word's transaction runs as the instruction the table word decodes to. -/
theorem hostTurn_carrier {nbits w : Nat} {i : Instr} (hn : nbits = 64 ∨ nbits = 72)
    (h : decodeTableWord nbits w = some i) (s : State) : hostTurn (carrier nbits w) s = exec i s := by
  rw [decodeTableWord_eq_some_iff] at h
  rcases hn with rfl | rfl
  · have hw : BitVec.ofNat 64 (fromBytes (toBytes 8 w)) = BitVec.ofNat 64 w := by
      rw [fromBytes_toBytes, ← BitVec.toNat_inj, BitVec.toNat_ofNat, BitVec.toNat_ofNat]
      exact Nat.mod_mod w (2 ^ 64)
    have hcmd : decodeCmd (BitVec.ofNat 64 w) = some i := hw ▸ (decode_command_iff (toBytes_length 8 w) i).mp h
    calc hostTurn (carrier 64 w) s
        = exec (.wrCmd (BitVec.ofNat 64 w)) s := congrArg (exec · s) (decodeBus_write 7#4 _)
      _ = exec i s := exec_wrCmd_of_decodeCmd hcmd s
  · obtain ⟨_, hbus⟩ := (decode_transaction_iff (toBytes_length 9 w) i).mp h
    have hw : BitVec.ofNat 69 (fromBytes (toBytes 9 w)) = BitVec.ofNat 69 w := by
      rw [fromBytes_toBytes, ← BitVec.toNat_inj, BitVec.toNat_ofNat, BitVec.toNat_ofNat]
      exact Nat.mod_mod_of_dvd w (by decide)
    rw [hw] at hbus
    exact congrArg (exec · s) hbus

/-- Settles O6: the placed transaction is the next event. -/
theorem fetchedTableWordRuns : Obligations.FetchedTableWordRuns := fun s nbits w _ hn h =>
  (step_scripted s (.host (carrier nbits w)) s.script).trans (hostTurn_carrier hn h s)

/-! ### Words written out (R81, R83) -/

/-- Settles O4 by evaluation: fixed words. -/
theorem writtenOutWordsDecode : Obligations.WrittenOutWordsDecode := by
  refine ⟨?_, ?_, ?_, ?_, ?_, ?_, ?_, ?_⟩ <;> decide

end Sys2Proof.Laws
end

section
/-! SUPPORT. The engine on a whole cipher command (R106, R107, R127 to R129, R202): from the accept it takes the command's
round steps and one completion step, and leaves the command's result. -/

namespace Sys2Proof.Machine

/-! ### The engine's steps up to the idle core -/

/-- R163: after exactly `n` engine steps, all of a busy core, the core is the idle `d`. -/
inductive EngineRuns : CoreState → Nat → CoreState → Prop where
  | idle {d : CoreState} (hb : d.busy = false) : EngineRuns d 0 d
  | step {c c' d : CoreState} {n : Nat} (hb : c.busy = true) (hx : engineStep c = .ok c') (h : EngineRuns c' n d) :
      EngineRuns c (n + 1) d

/-- R32: `STATUS` is `BUSY`, `DONE` and `ERR`. -/
theorem statusWord_congr {c c' : CoreState} (hb : c'.busy = c.busy) (hd : c'.done = c.done) (he : c'.err = c.err) :
    statusWord c' = statusWord c := by
  rw [statusWord, hb, hd, he, statusWord]

/-- R32, R163: an engine step that does not complete the command leaves `STATUS`. -/
theorem statusWord_engineStep {c c' : CoreState} (h : engineStep c = .ok c') (hb : c'.busy = true) :
    statusWord c' = statusWord c := by
  rcases engineStep_ok_cases h with ⟨_, rfl⟩ | ⟨_, _, rfl⟩ | ⟨_, _, _, rfl⟩ | ⟨_, _, _, rfl⟩
  · rfl
  · cases hb
  · exact statusWord_congr (roundA_busy c) (roundA_done c) (roundA_err c)
  · exact statusWord_congr (roundB_busy c) (roundB_done c) (roundB_err c)

/-- The completion step of a running core is the last. -/
theorem EngineRuns.of_complete {c : CoreState} (hb : c.busy = true) (hx : engineStep c = .ok (complete c)) :
    EngineRuns c 1 (complete c) :=
  .step hb hx (.idle rfl)

/-- R106: `CNT` counts the round steps of a Variant A command. -/
theorem engineRuns_roundA {n : Nat} {c : CoreState} (hb : c.busy = true) (ha : isVariantA c.opr = true)
    (hn : c.cnt.toNat = n) : EngineRuns c (n + 1) (complete (roundA^[n] c)) := by
  induction n generalizing c with
  | zero => exact .of_complete hb (engineStep_completeA c hb ha (BitVec.eq_of_toNat_eq hn))
  | succ n ih =>
    have h0 : c.cnt ≠ 0#7 := fun h => by simp [h] at hn
    have hcnt : (c.cnt - 1#7).toNat = n := by bv_omega
    exact .step hb (engineStep_roundA c hb ha h0) (ih (c := roundA c) hb ha hcnt)

/-- R127: a Variant B command does its round steps until `SUM` first meets `LIMIT`. -/
theorem engineRuns_roundB {n : Nat} {c : CoreState} (hb : c.busy = true) (ha : isVariantA c.opr = false)
    (hv : isVariantB c.opr = true) (hbefore : ∀ j < n, (roundB^[j] c).sum ≠ c.limit)
    (hstop : (roundB^[n] c).sum = c.limit) : EngineRuns c (n + 1) (complete (roundB^[n] c)) := by
  induction n generalizing c with
  | zero => exact .of_complete hb (engineStep_completeB c hb ha hv hstop)
  | succ n ih =>
    have h0 : c.sum ≠ c.limit := hbefore 0 n.succ_pos
    exact .step hb (engineStep_roundB c hb ha hv h0)
      (ih (c := roundB c) hb ha hv (fun j hj => hbefore (j + 1) (Nat.succ_lt_succ hj)) hstop)

/-! ### The loop of Variant B by direction and count (R124 to R129) -/

/-- R124 to R126: the start value of `SUM` for `n` double-rounds. -/
def startSum (dir : Bool) (n : Nat) : Word := if dir then Config.deltaB * BitVec.ofNat 64 n else 0#64

/-- R124 to R126: the `LIMIT` of `n` double-rounds. -/
def startLimit (dir : Bool) (n : Nat) : Word := if dir then 0#64 else Config.deltaB * BitVec.ofNat 64 n

/-- R122, R123: the double-round of a direction. -/
def doubleRoundB (k : Key) (dir : Bool) : Rnd → Rnd := if dir then invB k else fwdB k

/-- R128, R129: the operands of the first of `n` double-rounds on a block. -/
def startRnd (dir : Bool) (n : Nat) (b : Block) : Rnd := { v0 := b.v0, v1 := b.v1, sum := startSum dir n }

/-- R121, R129: of the counts up to `n`, below `PERIOD_B`, only `n` itself takes `SUM` to the limit. -/
theorem doubleRoundB_iterate_sum_eq_limit_iff (k : Key) (dir : Bool) (b : Block) {j n : Nat} (hj : j ≤ n)
    (hn : n < Config.periodB) :
    ((doubleRoundB k dir)^[j] (startRnd dir n b)).sum = startLimit dir n ↔ j = n := by
  have hperiod : Config.periodB = 2 ^ 61 := rfl
  have hcount : Config.deltaB * BitVec.ofNat 64 j = Config.deltaB * BitVec.ofNat 64 n ↔ j = n := by
    rw [deltaB_mul_eq_iff, Nat.mod_eq_of_lt (by omega), Nat.mod_eq_of_lt (by omega)]
  cases dir
  case false =>
    have hsum : ((doubleRoundB k false)^[j] (startRnd false n b)).sum = 0#64 + Config.deltaB * BitVec.ofNat 64 j :=
      fwdB_iterate_sum k j _
    rw [hsum, BitVec.zero_add]
    exact hcount
  case true =>
    have hsum : ((doubleRoundB k true)^[j] (startRnd true n b)).sum =
        Config.deltaB * BitVec.ofNat 64 n - Config.deltaB * BitVec.ofNat 64 j := invB_iterate_sum k j _
    have hzero : startLimit true n = 0#64 := rfl
    rw [hsum, hzero]
    exact sub_eq_zero.trans (eq_comm.trans hcount)

/-- R129: `DELTA_B` times the magnitude of a count is `DELTA_B` times its effective count. -/
theorem deltaB_mul_magnitude (r : Word) :
    Config.deltaB * magnitude r = Config.deltaB * BitVec.ofNat 64 (effectiveCount r) := by
  have h := (deltaB_mul_eq_iff (magnitude r).toNat (effectiveCount r)).mpr (Nat.mod_mod _ _).symm
  rwa [BitVec.ofNat_toNat, BitVec.setWidth_eq] at h

theorem effectiveCount_lt (r : Word) : effectiveCount r < Config.periodB := Nat.mod_lt _ (by decide)

/-- R128, R129: `XfrmB` is its effective count of double-rounds in the direction of the count's sign. -/
theorem transformB_eq_iterate (k : Key) (b : Block) (r : Word) :
    transformB k b r =
      ((doubleRoundB k r.msb)^[effectiveCount r] (startRnd r.msb (effectiveCount r) b)).block := by
  have hlt := effectiveCount_lt r
  have loop : whileB (doubleRoundB k r.msb) (startLimit r.msb (effectiveCount r)) Config.periodB
        (startRnd r.msb (effectiveCount r) b) =
      (doubleRoundB k r.msb)^[effectiveCount r] (startRnd r.msb (effectiveCount r) b) := by
    have sum_iff {j : Nat} (hj : j ≤ effectiveCount r) := doubleRoundB_iterate_sum_eq_limit_iff k r.msb b hj hlt
    exact whileB_eq_iterate _ _ _ _ _ hlt.le (fun j hj h => hj.ne ((sum_iff hj.le).mp h)) ((sum_iff le_rfl).mpr rfl)
  have hdelta := deltaB_mul_magnitude r
  rw [← loop, transformB]
  by_cases h0 : r = 0#64
  · subst h0
    rw [if_pos rfl]
    rfl
  · rw [if_neg h0]
    cases hm : r.msb
    case false =>
      have hmag : magnitude r = r := by simp [magnitude, hm]
      rw [hmag] at hdelta
      simp only [if_true, mul64, hdelta]
      rfl
    case true =>
      have hmag : magnitude r = neg64 r := by simp [magnitude, hm]
      rw [hmag] at hdelta
      simp only [Bool.true_eq_false, if_false, mul64, hdelta]
      rfl

/-! ### From the accept to the completed core (R107, R128, R164) -/

/-- R106, R107: a Variant A command. -/
theorem engineRuns_acceptA {o : BitVec 4} {dir : Bool} {sum : Word} {w : Word} {c : CoreState}
    (ho : isVariantA o = true) (hw : o = w.setWidth 4)
    (hresult : commandResult w c =
      ((if dir then invA c.key else fwdA c.key)^[64] { v0 := c.block.v0, v1 := c.block.v1, sum := sum }).block) :
    EngineRuns (accept o dir sum 0#64 Config.roundsA c) 65 (completedCore w c) := by
  have hruns := engineRuns_roundA (n := 64) (c := accept o dir sum 0#64 Config.roundsA c) rfl ho rfl
  rw [roundA_iterate] at hruns
  rw [completedCore, hresult, ← hw]
  exact hruns

/-- R127, R128: a Variant B command of `n` double-rounds. -/
theorem engineRuns_acceptB {o : BitVec 4} {dir : Bool} {n : Nat} {w : Word} {c : CoreState}
    (ha : isVariantA o = false) (hv : isVariantB o = true) (hn : n < Config.periodB) (hw : o = w.setWidth 4)
    (hresult : commandResult w c = ((doubleRoundB c.key dir)^[n] (startRnd dir n c.block)).block) :
    EngineRuns (accept o dir (startSum dir n) (startLimit dir n) 0#7 c) (n + 1) (completedCore w c) := by
  have hsum (j : Nat) : (roundB^[j] (accept o dir (startSum dir n) (startLimit dir n) 0#7 c)).sum =
      ((doubleRoundB c.key dir)^[j] (startRnd dir n c.block)).sum := by
    rw [roundB_iterate]
    rfl
  have sum_iff {j : Nat} (hj : j ≤ n) := doubleRoundB_iterate_sum_eq_limit_iff c.key dir c.block hj hn
  have hruns := engineRuns_roundB (n := n) (c := accept o dir (startSum dir n) (startLimit dir n) 0#7 c) rfl ha hv
    (fun j hj h => hj.ne ((sum_iff hj.le).mp ((hsum j).symm.trans h))) ((hsum n).trans ((sum_iff le_rfl).mpr rfl))
  rw [roundB_iterate] at hruns
  rw [completedCore, hresult, ← hw]
  exact hruns

/-- R124, R129: `XFRM_B` starts with the effective count of its `ROUNDS`. -/
theorem startXfrmB_eq_accept (c : CoreState) :
    startXfrmB c = accept 5#4 c.rounds.msb (startSum c.rounds.msb (effectiveCount c.rounds))
      (startLimit c.rounds.msb (effectiveCount c.rounds)) 0#7 c := by
  have hdelta := deltaB_mul_magnitude c.rounds
  rw [startXfrmB_eq, startSum, startLimit, ← hdelta, magnitude]
  cases c.rounds.msb <;> rfl

theorem isCipherCommand_cases {w : Word} (h : IsCipherCommand w) :
    w = 1#64 ∨ w = 2#64 ∨ w = 3#64 ∨ w = 4#64 ∨ w = 5#64 := by
  obtain ⟨hlow, hhigh⟩ := h
  bv_omega

/-- R104, R105, R124 to R126: a cipher command's word starts it. -/
theorem started_dispatchCommand {w : Word} (h : IsCipherCommand w) (c : CoreState) :
    Started c (dispatchCommand w c) := by
  rcases isCipherCommand_cases h with rfl | rfl | rfl | rfl | rfl
  · exact dispatchCommand_encA c ▸ .encA
  · exact dispatchCommand_decA c ▸ .decA
  · exact dispatchCommand_encB c ▸ .encB
  · exact dispatchCommand_decB c ▸ .decB
  · exact dispatchCommand_xfrmB c ▸ .xfrmB

theorem statusWord_accept (o : BitVec 4) (d : Bool) (s l : Word) (n : BitVec 7) (c : CoreState) :
    statusWord (accept o d s l n c) = statusWord { c with busy := true, done := false } :=
  statusWord_congr (accept_busy ..) (accept_done ..) (accept_err ..)

/-- R32, R154: what `STATUS` reads once a command has been accepted. -/
theorem started_statusWord {c c' : CoreState} (h : Started c c') :
    statusWord c' = statusWord { c with busy := true, done := false } := by
  cases h with
  | encA => exact statusWord_accept ..
  | decA => exact statusWord_accept ..
  | encB => exact statusWord_accept ..
  | decB => exact statusWord_accept ..
  | xfrmB => rw [startXfrmB_eq, statusWord_accept]

theorem commandResult_encA (c : CoreState) : commandResult 1#64 c = encryptA c.key c.block := by simp [commandResult]
theorem commandResult_decA (c : CoreState) : commandResult 2#64 c = decryptA c.key c.block := by simp [commandResult]
theorem commandResult_encB (c : CoreState) : commandResult 3#64 c = transformB c.key c.block 64#64 := by
  simp [commandResult]
theorem commandResult_decB (c : CoreState) : commandResult 4#64 c = transformB c.key c.block (neg64 64#64) := by
  simp [commandResult]
theorem commandResult_xfrmB (c : CoreState) : commandResult 5#64 c = transformB c.key c.block c.rounds := by
  simp [commandResult]

/-- R106, R129: the fixed commands do 64 double-rounds. -/
theorem commandRounds_fixed {w : Word} (h : w ≠ 5#64) (c : CoreState) : commandRounds w c = 64 := if_neg h

theorem commandRounds_xfrmB (c : CoreState) : commandRounds 5#64 c = effectiveCount c.rounds := if_pos rfl

/-- R106, R128, R202: from the accept the engine takes the command's double-rounds and one completion step, and leaves the
command's result. -/
theorem engineRuns_dispatchCommand {w : Word} (h : IsCipherCommand w) (c : CoreState) :
    EngineRuns (dispatchCommand w c) (commandRounds w c + 1) (completedCore w c) := by
  rcases isCipherCommand_cases h with rfl | rfl | rfl | rfl | rfl
  · rw [dispatchCommand_encA, commandRounds_fixed (by decide)]
    exact engineRuns_acceptA (dir := false) rfl rfl (commandResult_encA c)
  · rw [dispatchCommand_decA, commandRounds_fixed (by decide)]
    exact engineRuns_acceptA (dir := true) rfl rfl (commandResult_decA c)
  · rw [dispatchCommand_encB, commandRounds_fixed (by decide)]
    exact engineRuns_acceptB (dir := false) (n := 64) rfl rfl (by decide) rfl
      ((commandResult_encB c).trans (transformB_eq_iterate ..))
  · rw [dispatchCommand_decB, commandRounds_fixed (by decide)]
    exact engineRuns_acceptB (dir := true) (n := 64) rfl rfl (by decide) rfl
      ((commandResult_decB c).trans (transformB_eq_iterate ..))
  · rw [dispatchCommand_xfrmB, startXfrmB_eq_accept, commandRounds_xfrmB]
    exact engineRuns_acceptB rfl rfl (effectiveCount_lt _) rfl
      ((commandResult_xfrmB c).trans (transformB_eq_iterate ..))

end Sys2Proof.Machine
end

section
/-! SUPPORT. Host programs as runs (R62, R67, R89, R90): the steps that use up a list of events, the two interleavings under
one description, the lines of a program on an idle core, and a `WAIT` on a running one. -/

namespace Sys2Proof.Machine

/-! ### A poll and the pins that carry it (R51, R90) -/

/-- R51: the pins of a transaction carry that transaction. -/
@[simp] theorem pinsOf_bus (bus : BitVec 69) : (pinsOf bus).bus = bus := busWord_fields bus

/-- R90: an untimed poll of a running core. -/
theorem waitTurn_busy (gaps : List Nat) {s : State} (hb : s.core.busy = true) :
    waitTurn gaps s = .next ((s.returnWord (statusWord s.core)).before (waitAgain gaps)) := by
  rcases waitTurn_cases gaps s with ⟨_, h⟩ | ⟨hi, _⟩
  · exact h
  · exact absurd (hb.symm.trans hi) nofun

/-- R90: the last untimed poll. -/
theorem waitTurn_idle (gaps : List Nat) {s : State} (hb : s.core.busy = false) :
    waitTurn gaps s = .next (s.returnWord (statusWord s.core)) := by
  rcases waitTurn_cases gaps s with ⟨hi, _⟩ | ⟨_, h⟩
  · exact absurd (hb.symm.trans hi) nofun
  · exact h

/-- R90, R67: a clocked poll of a running core is the poll and then the engine's turn. -/
theorem waitCycle_busy (gaps : List Nat) {s : State} (hb : s.core.busy = true) :
    waitCycle gaps s = engineTurn ((s.returnWord (statusWord s.core)).before (waitCyclesAgain gaps)) := by
  rcases waitCycle_cases gaps s with ⟨_, c, hc, h⟩ | ⟨_, hf, h⟩ | ⟨hi, _⟩
  · exact h.trans (engineTurn_ok (s := (s.returnWord (statusWord s.core)).before (waitCyclesAgain gaps)) hc).symm
  · rw [h, engineTurn, State.before_core, State.returnWord_core, hf]
  · exact absurd (hb.symm.trans hi) nofun

/-- R90, R67: the last clocked poll. -/
theorem waitCycle_idle (gaps : List Nat) {s : State} (hb : s.core.busy = false) :
    waitCycle gaps s = .next (s.returnWord (statusWord s.core)) := by
  rcases waitCycle_cases gaps s with ⟨hi, _⟩ | ⟨hi, _⟩ | ⟨_, h⟩
  · exact absurd (hb.symm.trans hi) nofun
  · exact absurd (hb.symm.trans hi) nofun
  · exact h

/-- R67, R163: a cycle without a transaction is the engine's turn, on an idle core too. -/
theorem clockEdge_idlePins (s : State) : clockEdge idlePins s = engineTurn s := by
  cases hb : s.core.busy
  case false => rw [clockEdge_idle_unselected rfl rfl hb, engineTurn_idle hb]
  case true => exact clockEdge_busy_unselected rfl rfl hb

/-! ### Runs that use up a list of events -/

/-- `n` steps use up the events `es` and take the machine from `s` to `t`, whatever is scripted after them (`RunsTo` sets
both scripts, so those of `s` and `t` do not matter). -/
def RunsTo (n : Nat) (s : State) (es : List Event) (t : State) : Prop :=
  ∀ rest, run n { s with script := es ++ rest } = .next { t with script := rest }

theorem RunsTo.nil (s : State) : RunsTo 0 s [] s := fun _ => rfl

theorem RunsTo.append {m n : Nat} {s t u : State} {es fs : List Event} (h : RunsTo m s es t) (h' : RunsTo n t fs u) :
    RunsTo (m + n) s (es ++ fs) u := fun rest =>
  (run_add m n _ _ (List.append_assoc es fs rest ▸ h (fs ++ rest))).trans (h' rest)

/-- An event that puts the events `es` in its place. -/
theorem RunsTo.expand {n : Nat} {s t u : State} {e : Event} {es : List Event}
    (he : ∀ rest, runEvent e { s with script := rest } = .next { t with script := es ++ rest })
    (h : RunsTo n t es u) : RunsTo (n + 1) s [e] u := fun rest =>
  (run_succ n _ _ ((step_scripted s e rest).trans (he rest))).trans (h rest)

/-- An event that is done in one step, before others. -/
theorem RunsTo.cons {n : Nat} {s t u : State} {e : Event} {es : List Event}
    (he : ∀ rest, runEvent e { s with script := rest } = .next { t with script := rest })
    (h : RunsTo n t es u) : RunsTo (n + 1) s (e :: es) u := fun rest =>
  (run_succ n _ _ ((step_scripted s e (es ++ rest)).trans (he (es ++ rest)))).trans (h rest)

/-! ### The two interleavings (R62, R67) -/

/-- What the untimed and the clocked form of a program share: `idle` gives the engine the turn; `host` is the transaction
where the core is idle; `wait` polls, and where the core is busy stays in the script after some engine turns, one at least
(in the poll's own cycle, or after it) where the gaps are used up. -/
structure Interleaving (idle : Event) (host : BitVec 69 → Event) (wait : List Nat → Event) : Prop where
  idle_turn : ∀ s, runEvent idle s = engineTurn s
  host_idle : ∀ bus (s : State), s.core.busy = false → runEvent (host bus) s = hostTurn bus s
  wait_idle : ∀ gaps (s : State), s.core.busy = false →
    runEvent (wait gaps) s = .next (s.returnWord (statusWord s.core))
  wait_busy : ∀ gaps c c', c.busy = true → engineStep c = .ok c' →
    ∃ polled turns, (polled = c' ∨ polled = c ∧ (gaps = [] → turns ≠ 0)) ∧ ∀ s : State, s.core = c →
      runEvent (wait gaps) s = .next (((s.returnWord (statusWord c)).withCore polled).before
        (List.replicate turns idle ++ [wait gaps.tail]))

/-- R62: the untimed model. -/
theorem untimed_interleaving : Interleaving .engine .host .wait where
  idle_turn := fun _ => rfl
  host_idle := fun _ _ _ => rfl
  wait_idle := fun gaps _ hb => waitTurn_idle gaps hb
  wait_busy := fun gaps c _ hb _ =>
    ⟨c, gaps.headD 1, .inr ⟨rfl, fun hg => by simp [hg]⟩, fun _ hs => by cases hs; exact waitTurn_busy gaps hb⟩

/-- R67: the clocked refinement. -/
theorem clocked_interleaving : Interleaving (.clock idlePins) (fun bus => .clock (pinsOf bus)) .waitCycles where
  idle_turn := clockEdge_idlePins
  host_idle := fun bus s hb =>
    (clockEdge_idle_selected rfl rfl hb).trans (congrArg (hostTurn · s) (pinsOf_bus bus))
  wait_idle := fun gaps _ hb => waitCycle_idle gaps hb
  wait_busy := fun gaps _ c' hb hc =>
    ⟨c', gaps.headD 0, .inl rfl, fun _ hs => by cases hs; exact (waitCycle_busy gaps hb).trans (engineTurn_ok hc)⟩

/-- A program in two parts. -/
theorem weave_append (idle : Event) (host : BitVec 69 → Event) (wait : List Nat → Event) (paces : List Pace)
    (ls ls' : List Line) :
    weave idle host wait paces (ls ++ ls') =
      weave idle host wait paces ls ++ weave idle host wait (paces.drop ls.length) ls' := by
  induction ls generalizing paces with
  | nil => simp
  | cons l ls ih => simp [weave_cons, ih, List.drop_tail]

/-- A program whose lines follow at once has one event a line. -/
theorem weave_no_pace_length (idle : Event) (host : BitVec 69 → Event) (wait : List Nat → Event) (ls : List Line) :
    (weave idle host wait [] ls).length = ls.length := by
  induction ls with
  | nil => rfl
  | cons l ls ih => simpa [weave_cons] using ih

/-! ### Lines of transactions on an idle core -/

/-- The lines are transactions, each presented to an idle core, and their plain sequence takes `s` to `t`. -/
inductive HostRuns : List Line → State → State → Prop where
  | nil (s : State) : HostRuns [] s s
  | cons {bus : BitVec 69} {ls : List Line} {s t u : State} (hb : s.core.busy = false) (ht : hostTurn bus s = .next t)
      (h : HostRuns ls t u) : HostRuns (.transaction bus :: ls) s u

theorem HostRuns.append {ls ls' : List Line} {s t u : State} (h : HostRuns ls s t) (h' : HostRuns ls' t u) :
    HostRuns (ls ++ ls') s u := by
  induction h with
  | nil _ => exact h'
  | cons hb ht _ ih => exact .cons hb ht (ih h')

/-- R53, R151 to R153: a write line that stores an operand. -/
theorem hostTurn_store {s : State} {idx : BitVec 4} {w : Word} {store : CoreState → CoreState}
    (hb : s.core.busy = false)
    (h : exec (decodeWrite idx w) s = .next (s.withCore (storeData store s.core))) :
    hostTurn (scriptWr idx w) s = .next (s.withCore (store s.core)) := by
  rw [storeData, if_neg (ne_true_of_eq_false hb)] at h
  exact (congrArg (exec · s) (decodeBus_write idx w)).trans h

/-- R90: `LDKEY` and `LDBLK` on an idle core. -/
theorem hostRuns_load (k : Key) (b : Block) {s : State} (hb : s.core.busy = false) :
    HostRuns (ldKey k ++ ldBlk b) s (s.withCore { s.core with key := k, block := b }) :=
  .cons hb (hostTurn_store hb rfl) <| .cons hb (hostTurn_store hb rfl) <| .cons hb (hostTurn_store hb rfl) <|
  .cons hb (hostTurn_store hb rfl) <| .cons hb (hostTurn_store hb rfl) <| .cons hb (hostTurn_store hb rfl) <| .nil _

/-- R90: `LDN` on an idle core. -/
theorem hostRuns_ldN (n : Int) {s : State} (hb : s.core.busy = false) :
    HostRuns (ldN n) s (s.withCore { s.core with rounds := BitVec.ofInt 64 n }) :=
  .cons hb (hostTurn_store hb rfl) (.nil _)

/-- R154: a command word on an idle core. -/
theorem hostRuns_command (w : Word) {s : State} (hb : s.core.busy = false) :
    HostRuns [wr 7#4 w] s (s.withCore (dispatchCommand w s.core)) := by
  have hturn : hostTurn (scriptWr 7#4 w) s = .next (s.withCore (dispatchCommand w s.core)) := by
    refine (congrArg (exec · s) (decodeBus_write 7#4 w)).trans ?_
    show execWrCmd w s = _
    rw [execWrCmd, presentCommand, if_neg (ne_true_of_eq_false hb)]
  exact .cons hb hturn (.nil _)

/-- R90: `RDBLK` on an idle core. -/
theorem hostRuns_rdBlk {s : State} (hb : s.core.busy = false) :
    HostRuns rdBlk s ((s.returnWord s.core.block.v0).returnWord s.core.block.v1) :=
  .cons hb rfl (.cons hb rfl (.nil _))

section
variable {idle : Event} {host : BitVec 69 → Event} {wait : List Nat → Event}

/-! ### The engine's turns between lines -/

/-- Engine turns take a running core towards its end, and leave it there. -/
theorem runsTo_turns (hi : Interleaving idle host wait) (turns : Nat) {s : State} {n : Nat} {d : CoreState}
    (h : EngineRuns s.core n d) :
    ∃ c, EngineRuns c (n - turns) d ∧ RunsTo turns s (List.replicate turns idle) (s.withCore c) := by
  induction turns generalizing s n with
  | zero => exact ⟨s.core, h, .nil s⟩
  | succ turns ih =>
    have turn {c : CoreState} (hc : engineStep s.core = .ok c) (rest : List Event) :
        runEvent idle { s with script := rest } = .next { s.withCore c with script := rest } :=
      (hi.idle_turn _).trans (engineTurn_ok (s := { s with script := rest }) hc)
    cases h with
    | idle hb =>
      obtain ⟨c, hc, hruns⟩ := ih (.idle hb)
      exact ⟨c, by simpa using hc, .cons (turn (engineStep_idle _ hb)) hruns⟩
    | @step _ c' _ n _ hx h =>
      obtain ⟨c, hc, hruns⟩ := ih (s := s.withCore c') h
      exact ⟨c, by rwa [Nat.add_sub_add_right], .cons (turn hx) hruns⟩

/-- R37, R63: engine turns leave an idle core. -/
theorem runsTo_turns_idle (hi : Interleaving idle host wait) (turns : Nat) {s : State} (hb : s.core.busy = false) :
    RunsTo turns s (List.replicate turns idle) s := by
  obtain ⟨c, hc, hruns⟩ := runsTo_turns hi turns (.idle hb)
  rw [Nat.zero_sub] at hc
  cases hc
  exact hruns

/-- Lines of transactions on an idle core, whatever engine turns fall between them. -/
theorem runsTo_of_hostRuns (hi : Interleaving idle host wait) {ls : List Line} {s t : State} (h : HostRuns ls s t)
    (paces : List Pace) :
    RunsTo (weave idle host wait paces ls).length s (weave idle host wait paces ls) t := by
  induction h generalizing paces with
  | nil s => simpa using RunsTo.nil s
  | @cons bus ls s t u hb ht _ ih =>
    have line (rest : List Event) :
        runEvent (host bus) { s with script := rest } = .next { t with script := rest } :=
      (hi.host_idle bus { s with script := rest } hb).trans (exec_script _ s t rest ht)
    have hruns := (runsTo_turns_idle hi (paces.headD { before := 0, gaps := [] }).before hb).append
      (.cons line (ih paces.tail))
    rw [weave_cons, List.length_append, List.length_replicate, List.length_cons]
    exact hruns

/-! ### `WAIT` on a running core -/

/-- R90: a poll of a running core and the engine turns after it, up to the `WAIT` again: an engine step is done or a gap
used up. -/
theorem runsTo_wait_of_busy (hi : Interleaving idle host wait) {s : State} {n : Nat} {d : CoreState} (gaps : List Nat)
    (hb : s.core.busy = true) (h : EngineRuns s.core n d) :
    ∃ m c left, EngineRuns c left d ∧ left + gaps.tail.length < n + gaps.length ∧
      ∀ k u, RunsTo k ((s.returnWord (statusWord s.core)).withCore c) [wait gaps.tail] u →
        RunsTo (m + k + 1) s [wait gaps] u := by
  cases h with
  | idle hb' => exact absurd (hb.symm.trans hb') nofun
  | @step _ c' _ n _ hx h =>
    obtain ⟨polled, turns, hpolled, hpoll⟩ := hi.wait_busy gaps s.core c' hb hx
    obtain ⟨left, hleft, hless⟩ : ∃ left, EngineRuns polled left d ∧
        left - turns + gaps.tail.length < n + 1 + gaps.length := by
      rw [List.length_tail]
      rcases hpolled with rfl | ⟨rfl, hturns⟩
      · exact ⟨n, h, by omega⟩
      · refine ⟨n + 1, .step hb hx h, ?_⟩
        cases gaps with
        | nil => have := hturns rfl; simp only [List.length_nil]; omega
        | cons g gs => simp only [List.length_cons]; omega
    obtain ⟨c, hc, hturns⟩ := runsTo_turns hi turns (s := (s.returnWord (statusWord s.core)).withCore polled) hleft
    have hfirst (rest : List Event) : runEvent (wait gaps) { s with script := rest } =
        .next { (s.returnWord (statusWord s.core)).withCore polled with
          script := (List.replicate turns idle ++ [wait gaps.tail]) ++ rest } := hpoll _ rfl
    exact ⟨turns, c, left - turns, hc, hless, fun k u hwait => .expand hfirst (hturns.append hwait)⟩

/-- R90, R62, R68: a `WAIT` polls until the command is done, and only its last poll reads `BUSY = 0`: by induction on the
engine steps and the gaps left. -/
theorem runsTo_wait (hi : Interleaving idle host wait) {s : State} {n : Nat} {d : CoreState} (gaps : List Nat)
    (h : EngineRuns s.core n d) :
    ∃ m busyPolls, RunsTo m s [wait gaps] { s with core := d, reads := statusWord d :: busyPolls ++ s.reads } ∧
      ∀ w ∈ busyPolls, readsBusy w = true := by
  induction hm : n + gaps.length using Nat.strong_induction_on generalizing s n gaps with
  | _ m ih =>
    cases hs : s.core.busy
    case false =>
      cases h with
      | idle hb => exact ⟨1, [], .cons (fun rest => hi.wait_idle gaps { s with script := rest } hb) (.nil _), nofun⟩
      | step hb _ _ => exact absurd (hb.symm.trans hs) nofun
    case true =>
      obtain ⟨turns, c, left, hc, hless, hfirst⟩ := runsTo_wait_of_busy hi gaps hs h
      obtain ⟨k, polls, hwait, hbusy⟩ := ih _ (hm ▸ hless)
        (s := (s.returnWord (statusWord s.core)).withCore c) gaps.tail hc rfl
      refine ⟨turns + k + 1, polls ++ [statusWord s.core], ?runs, ?busy⟩
      case runs => simpa using hfirst k _ hwait
      case busy => simpa [or_imp, forall_and, hs] using hbusy

/-- R62, R90: the line `WAIT` with its pace. -/
theorem runsTo_waitLine (hi : Interleaving idle host wait) {s : State} {n : Nat} {d : CoreState} (paces : List Pace)
    (h : EngineRuns s.core n d) :
    ∃ m busyPolls, RunsTo m s (weave idle host wait paces [.wait])
        { s with core := d, reads := statusWord d :: busyPolls ++ s.reads } ∧
      ∀ w ∈ busyPolls, readsBusy w = true := by
  obtain ⟨c, hc, hturns⟩ := runsTo_turns hi (paces.headD { before := 0, gaps := [] }).before h
  obtain ⟨k, busyPolls, hwait, hbusy⟩ :=
    runsTo_wait hi (s := s.withCore c) (paces.headD { before := 0, gaps := [] }).gaps hc
  rw [weave_cons, weave_nil]
  exact ⟨_, busyPolls, hturns.append hwait, hbusy⟩

end

end Sys2Proof.Machine
end

section
/-! PROOFS. The source-level calls (30_encoding.md R90): what one poll of `WAIT` does, the five calls under every
interleaving, and their exact course on the clocked machine at one transaction a cycle. -/

namespace Sys2Proof.Laws

open Sys2Proof.Machine

/-- Settles O59: a poll of a running and of an idle core, untimed and in a clock cycle. -/
theorem waitRepeatsWhileBusy : Obligations.WaitRepeatsWhileBusy := by
  intro s gaps rest read again againCycles poll
  have hagain : waitAgain gaps ++ rest = again := List.append_assoc ..
  have hcycles : waitCyclesAgain gaps ++ rest = againCycles := List.append_assoc ..
  have hwait : step { s with script := .wait gaps :: rest } = waitTurn gaps { s with script := rest } :=
    step_scripted s (.wait gaps) rest
  have hwaitCycles : step { s with script := .waitCycles gaps :: rest } = waitCycle gaps { s with script := rest } :=
    step_scripted s (.waitCycles gaps) rest
  simp only [readsBusy_statusWord]
  refine ⟨fun hb => ?busy, fun hb => ?idle⟩
  case busy =>
    have hclock : step { s with script := .clock poll :: againCycles } = engineTurn (read againCycles) :=
      (step_scripted s (.clock poll) againCycles).trans
        (clockEdge_busy_selected rfl rfl hb (hostTurn_rdStatus { s with script := againCycles }))
    have huntimed : step { s with script := .wait gaps :: rest } = .next (read (waitAgain gaps ++ rest)) :=
      hwait.trans (waitTurn_busy gaps hb)
    have hclocked : step { s with script := .waitCycles gaps :: rest } =
        engineTurn (read (waitCyclesAgain gaps ++ rest)) := hwaitCycles.trans (waitCycle_busy gaps hb)
    rw [hagain] at huntimed
    rw [hcycles] at hclocked
    exact ⟨huntimed, hclocked.trans hclock.symm, hclock⟩
  case idle => exact ⟨hwait.trans (waitTurn_idle gaps hb), hwaitCycles.trans (waitCycle_idle gaps hb)⟩

/-! ### A call: its operands loaded, its command run, its result read -/

/-- R90: a call with the operand lines `loads` and the command word `w`. -/
def callLines (loads : List Line) (w : Word) : List Line := loads ++ runCmd w ++ rdBlk

theorem callLines_eq (loads : List Line) (w : Word) :
    callLines loads w = (loads ++ [wr 7#4 w]) ++ ([.wait] ++ rdBlk) := by
  simp [callLines, runCmd, Machine.wait]

/-- What the operand lines of a call do on an idle core: they leave the idle core `c`, return no word and record no
error. -/
structure Loads (loads : List Line) (s : State) (c : CoreState) : Prop where
  runs : HostRuns loads s (s.withCore c)
  idle : c.busy = false
  err : c.err = s.core.err

/-- R90: the operand lines of the Variant A calls, `encryptBlock_B` and `decryptBlock_B`. -/
theorem loads_block (k : Key) (b : Block) {s : State} (hb : s.core.busy = false) :
    Loads (ldKey k ++ ldBlk b) s { s.core with key := k, block := b } :=
  ⟨hostRuns_load k b hb, hb, rfl⟩

/-- R90: the operand lines of `feistelTransform`. -/
theorem loads_count (k : Key) (b : Block) (n : Int) {s : State} (hb : s.core.busy = false) :
    Loads (ldKey k ++ ldBlk b ++ ldN n) s
      { s.core with key := k, block := b, rounds := BitVec.ofInt 64 n } :=
  have hldN := hostRuns_ldN n (s := s.withCore { s.core with key := k, block := b }) hb
  ⟨(hostRuns_load k b hb).append hldN, hb, rfl⟩

section
variable {idle : Event} {host : BitVec 69 → Event} {wait : List Nat → Event}

/-- R90: a call is its loads and command, its `WAIT`, and its two reads; only the `WAIT` depends on more than the operands
and the interleaving. -/
theorem runsTo_callLines (hi : Interleaving idle host wait) {loads : List Line} {s : State} {c : CoreState}
    (hl : Loads loads s c) (w : Word) (paces : List Pace) {m : Nat} {polls : List Word}
    (hwait : RunsTo m (s.withCore (dispatchCommand w c))
      (weave idle host wait (paces.drop (loads ++ [wr 7#4 w]).length) [.wait])
      { s with core := completedCore w c, reads := polls ++ s.reads }) :
    RunsTo
      ((weave idle host wait paces (loads ++ [wr 7#4 w])).length + (m +
        (weave idle host wait ((paces.drop (loads ++ [wr 7#4 w]).length).drop 1) rdBlk).length))
      s (weave idle host wait paces (callLines loads w))
      { s with
        core := completedCore w c
        reads := [(commandResult w c).v1, (commandResult w c).v0] ++ polls ++ s.reads } := by
  have hstart := runsTo_of_hostRuns hi (hl.runs.append (hostRuns_command w hl.idle)) paces
  have hread := runsTo_of_hostRuns hi
    (hostRuns_rdBlk (s := { s with core := completedCore w c, reads := polls ++ s.reads }) rfl)
    ((paces.drop (loads ++ [wr 7#4 w]).length).drop 1)
  rw [callLines_eq, weave_append _ _ _ _ (loads ++ [wr 7#4 w]), weave_append _ _ _ _ [.wait]]
  exact hstart.append (hwait.append hread)

/-- R90, R107, R128, R63 (d): a call returns its command's result on the operands loaded, under either interleaving and every
pace. -/
theorem callReturns_callLines (hi : Interleaving idle host wait) {loads : List Line} {s : State} {c : CoreState}
    (hl : Loads loads s c) {w : Word} (hw : IsCipherCommand w) (paces : List Pace) :
    CallReturns s (weave idle host wait paces (callLines loads w)) (commandResult w c) := by
  intro rest
  obtain ⟨m, busyPolls, hwait, hbusy⟩ := runsTo_waitLine hi (s := s.withCore (dispatchCommand w c))
    (paces.drop (loads ++ [wr 7#4 w]).length) (engineRuns_dispatchCommand hw c)
  have hcall := runsTo_callLines hi hl w paces hwait
  exact ⟨_, _, busyPolls, statusWord (completedCore w c), hcall rest, rfl, rfl, rfl, rfl,
    readsBusy_statusWord _, hbusy⟩

end

/-- Settles O60: each of the five calls, under each of the two interleavings. -/
theorem sourceCallsUnderEveryInterleaving : Obligations.SourceCallsUnderEveryInterleaving := by
  intro s k b n paces hb call hcall
  have returns {loads : List Line} {c : CoreState} (hl : Loads loads s c) {w : Word} (hw : IsCipherCommand w)
      {out : Block} (hout : commandResult w c = out) :
      CallReturns s (asTransactions paces (callLines loads w)) out ∧
      CallReturns s (asCycles paces (callLines loads w)) out :=
    hout ▸ ⟨callReturns_callLines untimed_interleaving hl hw paces,
      callReturns_callLines clocked_interleaving hl hw paces⟩
  simp only [List.mem_cons, List.not_mem_nil, or_false] at hcall
  rcases hcall with rfl | rfl | rfl | rfl | rfl
  · exact returns (loads_block k b hb) (w := 1#64) (by decide) (commandResult_encA _)
  · exact returns (loads_block k b hb) (w := 2#64) (by decide) (commandResult_decA _)
  · exact returns (loads_block k b hb) (w := 3#64) (by decide) (commandResult_encB _)
  · exact returns (loads_block k b hb) (w := 4#64) (by decide) (commandResult_decB _)
  · exact returns (loads_count k b n hb) (w := 5#64) (by decide) (commandResult_xfrmB _)

/-! ### The clocked machine at one transaction a cycle -/

/-- R90, R67: on the clocked machine a `WAIT` without gaps polls at every engine step and once more. -/
theorem runsTo_waitCycles {n : Nat} {s : State} {d : CoreState} (h : EngineRuns s.core n d) :
    RunsTo (n + 1) s [.waitCycles []]
      { s with core := d, reads := statusWord d :: List.replicate n (statusWord s.core) ++ s.reads } := by
  generalize hc : s.core = c at h
  induction h generalizing s with
  | @idle d hb =>
    subst hc
    have hpoll (rest : List Event) : runEvent (.waitCycles []) { s with script := rest } =
        .next { s.returnWord (statusWord s.core) with script := rest } :=
      waitCycle_idle [] (s := { s with script := rest }) hb
    exact .cons hpoll (.nil _)
  | @step c c' d n hb hx h ih =>
    subst hc
    have hpoll (rest : List Event) : runEvent (.waitCycles []) { s with script := rest } =
        .next { (s.returnWord (statusWord s.core)).withCore c' with script := [.waitCycles []] ++ rest } :=
      (waitCycle_busy [] (s := { s with script := rest }) hb).trans (engineTurn_ok hx)
    have hstatus : List.replicate n (statusWord c') = List.replicate n (statusWord s.core) := by
      cases h with
      | idle _ => rfl
      | step hb' _ _ => rw [statusWord_engineStep hx hb']
    have hruns := RunsTo.expand hpoll (ih (s := (s.returnWord (statusWord s.core)).withCore c') rfl)
    rw [hstatus] at hruns
    simpa [List.replicate_succ'] using hruns

/-- R90, R202: the course of a call of `n` double-rounds on the clocked machine, one transaction a cycle. -/
theorem runsTo_call_clocked {loads : List Line} {s : State} {c : CoreState} (hl : Loads loads s c) {w : Word}
    (hw : IsCipherCommand w) {n : Nat} (hn : commandRounds w c = n) {out : Block} (hout : commandResult w c = out) :
    RunsTo (loads.length + n + 5) s (asCycles [] (callLines loads w))
      { s with
        core := completedCore w c
        reads := [out.v1, out.v0, statusWord { s.core with busy := false, done := true }] ++
          List.replicate (n + 1) (statusWord { s.core with busy := true, done := false }) ++ s.reads } := by
  subst hn hout
  have hbusyPoll : statusWord (dispatchCommand w c) = statusWord { s.core with busy := true, done := false } :=
    (started_statusWord (started_dispatchCommand hw c)).trans (statusWord_congr rfl rfl hl.err)
  have hlastPoll : statusWord (completedCore w c) = statusWord { s.core with busy := false, done := true } :=
    statusWord_congr rfl rfl hl.err
  have hwait := runsTo_waitCycles (s := s.withCore (dispatchCommand w c)) (engineRuns_dispatchCommand hw c)
  rw [State.withCore_core, hbusyPoll, hlastPoll] at hwait
  have hcall := runsTo_callLines clocked_interleaving hl w [] (polls := _ :: List.replicate _ _)
    (by rw [List.drop_nil]; exact hwait)
  have hcount : loads.length + commandRounds w c + 5 =
      (loads ++ [wr 7#4 w]).length + (commandRounds w c + 1 + 1 + rdBlk.length) := by
    simp only [List.length_append, rdBlk, List.length_cons, List.length_nil]
    omega
  rw [List.drop_nil, List.drop_nil, weave_no_pace_length, weave_no_pace_length, ← hcount] at hcall
  exact hcall

/-- Settles O57: the course of a call with 6 operand lines and 64 double-rounds. -/
theorem sourceCallsVariantA : Obligations.SourceCallsVariantA := by
  intro s k b rest hb busyPoll lastPoll
  have hl := loads_block k b hb
  have henc := runsTo_call_clocked hl (w := 1#64) (by decide) (commandRounds_fixed (by decide) _) (commandResult_encA _)
  have hdec := runsTo_call_clocked hl (w := 2#64) (by decide) (commandRounds_fixed (by decide) _) (commandResult_decA _)
  exact ⟨⟨_, henc rest, rfl, rfl⟩, ⟨_, hdec rest, rfl, rfl⟩⟩

/-- Settles O58: the same for the three Variant B calls, the last with 7 operand lines and its own count. -/
theorem sourceCallsVariantB : Obligations.SourceCallsVariantB := by
  intro s k b n rest hb busyPoll lastPoll enc dec r out
  have hl := loads_block k b hb
  have henc := runsTo_call_clocked hl (w := 3#64) (by decide) (commandRounds_fixed (by decide) _) (commandResult_encB _)
  have hdec := runsTo_call_clocked hl (w := 4#64) (by decide) (commandRounds_fixed (by decide) _) (commandResult_decB _)
  have htransform := runsTo_call_clocked (loads_count k b n hb) (w := 5#64) (by decide) (commandRounds_xfrmB _)
    (commandResult_xfrmB _)
  have hsteps : (ldKey k ++ ldBlk b ++ ldN n).length + effectiveCount r + 5 = effectiveCount r + 12 := by
    show 7 + effectiveCount r + 5 = effectiveCount r + 12
    omega
  exact ⟨⟨_, henc rest, rfl, rfl⟩, ⟨_, hdec rest, rfl, rfl⟩, ⟨_, hsteps ▸ htransform rest, rfl, rfl⟩⟩

end Sys2Proof.Laws
end

section
/-! SUPPORT. A cipher command from its accept to its result while the host only reads (R62, R63, R107, R128, R164). -/

namespace Sys2Proof.Machine

/-- R154: an idle core decodes the command it is presented. -/
theorem presentCommand_idle (start : CoreState → CoreState) {c : CoreState} (hb : c.busy = false) :
    presentCommand start c = start c := by
  rcases presentCommand_cases start c with ⟨_, h⟩ | ⟨hn, _⟩
  · exact h
  · exact absurd (hb.symm.trans hn) nofun

/-- R106, R163: an engine turn is one of the steps a running command has left, or none once it has completed; a read is
none of them. -/
theorem engineRuns_step {s : State} {e : Event} {rest : List Event} {n : Nat} {d : CoreState}
    (h : EngineRuns s.core n d) (hs : s.script = e :: rest) (he : e.isEngine = true ∨ e.isRead = true) :
    ∃ t, step s = .next t ∧ t.script = rest ∧ EngineRuns t.core (n - engineTurns [e]) d := by
  cases e with
  | host bus =>
    have hread : (decodeBus bus).isRead = true := he.resolve_left nofun
    obtain ⟨w, hx⟩ := exec_of_isRead hread { s with script := rest }
    exact ⟨_, (step_cons s _ rest hs).trans hx, rfl, h⟩
  | engine =>
    cases h with
    | idle hb => exact ⟨_, step_engine s rest _ hs (engineStep_idle _ hb), rfl, .idle hb⟩
    | step _ hx h => exact ⟨_, step_engine s rest _ hs hx, rfl, h⟩
  | _ => simp [Event.isEngine, Event.isRead] at he

/-- R63, R106: reads, and engine turns for all the steps left, take a running command to its end. -/
theorem run_of_engineRuns {s : State} {es rest : List Event} {n : Nat} {d : CoreState} (h : EngineRuns s.core n d)
    (hs : s.script = es ++ rest) (hes : ReadsAndEngine es) (hn : n ≤ engineTurns es) :
    ∃ t, run es.length s = .next t ∧ t.script = rest ∧ t.core = d := by
  induction es generalizing s n with
  | nil =>
    obtain rfl : n = 0 := Nat.le_zero.mp hn
    cases h
    exact ⟨s, rfl, hs, rfl⟩
  | cons e es ih =>
    obtain ⟨he, hes⟩ := List.forall_mem_cons.mp hes
    obtain ⟨u, hstep, hscript, hruns⟩ := engineRuns_step h hs he
    have hturns : engineTurns (e :: es) = engineTurns es + engineTurns [e] := by simp [engineTurns, List.countP_cons]
    obtain ⟨t, hrun, ht⟩ := ih hruns hscript hes (by omega)
    exact ⟨t, (run_succ _ s u hstep).trans hrun, ht⟩

/-- R107, R128: a command word on an idle core, then reads and engine turns for its double-rounds and its completion. -/
theorem run_command_reads {s : State} {w : Word} {es rest : List Event} (hw : IsCipherCommand w)
    (hb : s.core.busy = false) (hes : ReadsAndEngine es) (hturns : commandRounds w s.core + 1 ≤ engineTurns es) :
    ∃ t, run (es.length + 1) { s with script := .host (scriptWr 7#4 w) :: (es ++ rest) } = .next t ∧
      t.script = rest ∧ t.core = completedCore w s.core := by
  obtain ⟨t, hrun, ht⟩ := run_of_engineRuns
    (s := { s with script := es ++ rest, core := dispatchCommand w s.core }) (engineRuns_dispatchCommand hw s.core)
    rfl hes hturns
  exact ⟨t, (run_succ _ _ _ (step_command s w (es ++ rest) hb)).trans hrun, ht⟩

/-- R37, R164: from an idle core that meets the invariant a command changes `BLOCK`, `OPR` and `DONE` alone: the loop state
was 0 before it. -/
theorem completedCore_of_idle (w : Word) {c : CoreState} (h : c.Inv) (hb : c.busy = false) :
    completedCore w c = { c with block := commandResult w c, opr := w.setWidth 4, done := true } := by
  obtain ⟨hsum, hlimit, hcnt, hdir⟩ := h.idle hb
  rw [completedCore, hsum, hlimit, hcnt, hdir, hb]

end Sys2Proof.Machine
end

section
/-! PROOFS. Variant A (40_variant_a.md): the mixing function (R100), the double-rounds and their inverses (R102, R103,
R108), the commands `ENC_A` and `DEC_A` (R104 to R107), and the counter against the sum test (R109). -/

namespace Sys2Proof.Laws

open Sys2Proof.Machine

/-! ### The mixing function and the double-rounds (R100, R102, R103) -/

/-- R100: `FA` on numbers. -/
theorem mixA_toNat (x : Word) :
    (mixA x).toNat = ((((x.toNat * 2 ^ 14) % 2 ^ 64) ^^^ (x.toNat / 2 ^ 15)) + x.toNat) % 2 ^ 64 := by
  rw [mixA, BitVec.toNat_add, BitVec.toNat_xor, shl64_toNat, shr64_toNat, Config.shlA, Config.shrA]

/-- Settles O11: the formula by the numbers of the shifts, the corner cases by evaluation. -/
theorem mixingFunctionA : Obligations.MixingFunctionA :=
  ⟨mixA_toNat, by decide, by decide, by decide, by decide⟩

/-- R103: each half-round takes off the term the forward half-round added, computed from the same half, sum and key
word. -/
theorem invA_fwdA (k : Key) (r : Rnd) : invA k (fwdA k r) = r := by
  simp only [invA, fwdA, sub64, add64, BitVec.add_sub_cancel]

theorem fwdA_invA (k : Key) (r : Rnd) : fwdA k (invA k r) = r := by
  simp only [invA, fwdA, sub64, add64, BitVec.sub_add_cancel]

/-- Settles O13: the formulas are the definitions, the inverses the two cancellations. -/
theorem doubleRoundsAComputeAndInvert : Obligations.DoubleRoundsAComputeAndInvert := fun k r =>
  ⟨rfl, rfl, invA_fwdA k r, fwdA_invA k r⟩

/-! ### Encryption and decryption (R107, R108) -/

/-- R107, R108: encryption ends where decryption starts, at `SUM = SUM64_A`. -/
theorem fwdA_iterate_start (k : Key) (b : Block) :
    (fwdA k)^[64] { v0 := b.v0, v1 := b.v1, sum := 0#64 } =
      { v0 := (encryptA k b).v0, v1 := (encryptA k b).v1, sum := Config.sum64A } := by
  have hsum : ((fwdA k)^[64] { v0 := b.v0, v1 := b.v1, sum := 0#64 }).sum = Config.sum64A :=
    (fwdA_iterate_sum k 64 _).trans (BitVec.zero_add _)
  rw [← hsum]
  rfl

/-- R107, R108: decryption ends where encryption starts, at `SUM = 0`. -/
theorem invA_iterate_start (k : Key) (b : Block) :
    (invA k)^[64] { v0 := b.v0, v1 := b.v1, sum := Config.sum64A } =
      { v0 := (decryptA k b).v0, v1 := (decryptA k b).v1, sum := 0#64 } := by
  have hsum : ((invA k)^[64] { v0 := b.v0, v1 := b.v1, sum := Config.sum64A }).sum = 0#64 :=
    (invA_iterate_sum k 64 _).trans (BitVec.sub_self _)
  rw [← hsum]
  rfl

theorem decryptA_encryptA (k : Key) (b : Block) : decryptA k (encryptA k b) = b := by
  rw [decryptA, ← fwdA_iterate_start, Function.LeftInverse.iterate (invA_fwdA k) 64]
  rfl

theorem encryptA_decryptA (k : Key) (b : Block) : encryptA k (decryptA k b) = b := by
  rw [encryptA, ← invA_iterate_start, Function.LeftInverse.iterate (fwdA_invA k) 64]
  rfl

/-- Settles O15: the double-rounds undo each other one by one, and the sums meet. -/
theorem variantARoundTrip : Obligations.VariantARoundTrip := fun k =>
  ⟨fun b => ⟨decryptA_encryptA k b, encryptA_decryptA k b⟩,
    Function.bijective_iff_has_inverse.mpr ⟨decryptA k, decryptA_encryptA k, encryptA_decryptA k⟩⟩

/-! ### The counter and the sum (R26, R109) -/

/-- R109: `DELTA_A` is odd, so a unit modulo 2^64. -/
theorem deltaA_isUnit : IsUnit Config.deltaA :=
  .of_mul_eq_one 0xF1DE83E19937733D#64 (by decide)

/-- R109: different counts give different multiples of `DELTA_A`. -/
theorem deltaA_mul_eq_iff (a b : Word) : Config.deltaA * a = Config.deltaA * b ↔ a = b :=
  deltaA_isUnit.mul_right_inj

/-- R26: a running `ENC_A` has done `64 - CNT` double-rounds. -/
theorem sum_eq_sum64A_iff {c : CoreState} (h : c.Inv) (hb : c.busy = true) (ho : c.opr = 1#4) :
    c.sum = Config.sum64A ↔ c.cnt = 0#7 := by
  obtain ⟨_, hle, hdir, hsum⟩ := h.runningA hb (by rw [ho]; rfl)
  have hforward : c.dir = false := by rw [hdir, ho]; rfl
  have h64 : c.cnt.toNat ≤ 64 := hle
  rw [hforward, if_neg nofun] at hsum
  rw [hsum, Config.sum64A, deltaA_mul_eq_iff]
  constructor <;> intro _ <;> bv_omega

/-- R26: a running `DEC_A` has `CNT` double-rounds to do. -/
theorem sum_eq_zero_iff {c : CoreState} (h : c.Inv) (hb : c.busy = true) (ho : c.opr = 2#4) :
    c.sum = 0#64 ↔ c.cnt = 0#7 := by
  obtain ⟨_, _, hdir, hsum⟩ := h.runningA hb (by rw [ho]; rfl)
  have hinverse : c.dir = true := by rw [hdir, ho]; rfl
  rw [hinverse, if_pos rfl] at hsum
  rw [hsum, ← BitVec.mul_zero (x := Config.deltaA), deltaA_mul_eq_iff]
  constructor <;> intro _ <;> bv_omega

/-- Settles O19: multiples of `DELTA_A` differ where their counts do, and the invariant says which multiple `SUM` is. -/
theorem counterAgreesWithSumTest : Obligations.CounterAgreesWithSumTest :=
  ⟨fun j => deltaA_mul_eq_iff j 64#64, fun _ h hb => ⟨sum_eq_sum64A_iff h hb, sum_eq_zero_iff h hb⟩⟩

/-! ### The commands (R104 to R107) -/

/-- R104: `ENC_A` on an idle core. -/
theorem exec_encA_idle {s : State} (hb : s.core.busy = false) :
    exec .encA s = .next (s.withCore (startEncA s.core)) := by
  show execEncA s = _
  rw [execEncA, presentCommand_idle startEncA hb]

/-- R105: `DEC_A` on an idle core. -/
theorem exec_decA_idle {s : State} (hb : s.core.busy = false) :
    exec .decA s = .next (s.withCore (startDecA s.core)) := by
  show execDecA s = _
  rw [execDecA, presentCommand_idle startDecA hb]

/-- Settles O22: an idle core takes the start values, and the command word is the command (`exec_wrCmd_of_decodeCmd`). -/
theorem variantACommandsAccepted : Obligations.VariantACommandsAccepted := by
  intro s hb enc dec
  have henc : exec .encA s = .next enc := exec_encA_idle hb
  have hdec : exec .decA s = .next dec := exec_decA_idle hb
  exact ⟨henc, (exec_wrCmd_of_decodeCmd rfl s).trans henc, hdec, (exec_wrCmd_of_decodeCmd rfl s).trans hdec⟩

theorem isVariantA_of_opr {o : BitVec 4} (h : o = 1#4 ∨ o = 2#4) : isVariantA o = true := by
  rcases h with rfl | rfl <;> rfl

/-- Settles O42: the completion step at `CNT = 0`, a double-round otherwise. -/
theorem engineStepVariantA : Obligations.EngineStepVariantA := by
  intro s hb ho
  have ha := isVariantA_of_opr ho
  exact ⟨fun h0 => engineTurn_ok (engineStep_completeA s.core hb ha h0),
    fun h0 => engineTurn_ok (engineStep_roundA s.core hb ha h0)⟩

/-- Settles O51: each command's word by the run of a cipher command, 64 double-rounds and the completion. -/
theorem variantACommandResult : Obligations.VariantACommandResult := by
  intro s w es rest hinv hb hw hes hturns
  have hcipher : IsCipherCommand w := by rcases hw with rfl | rfl <;> decide
  have hrounds : commandRounds w s.core = 64 := commandRounds_fixed (by rcases hw with rfl | rfl <;> decide) s.core
  have hresult : commandResult w s.core =
      if w = 1#64 then encryptA s.core.key s.core.block else decryptA s.core.key s.core.block := by
    rcases hw with rfl | rfl
    · exact commandResult_encA s.core
    · exact commandResult_decA s.core
  rw [← hresult, ← completedCore_of_idle w hinv hb]
  exact run_command_reads hcipher hb hes (by omega)

end Sys2Proof.Laws
end

section
/-! PROOFS. Variant B (41_variant_b.md): the mixing function (R120), the key selection (R121), the double-rounds and
their inverses (R122, R123), the commands `XFRM_B`, `ENC_B` and `DEC_B` (R124 to R128), the effective count (R129), the round
trip (R130) and the zero count (R131). -/

namespace Sys2Proof.Laws

open Sys2Proof.Machine

/-! ### The mixing function and the double-rounds (R120, R122, R123) -/

/-- R120: `GB` on numbers. -/
theorem mixB_toNat (x s kw : Word) :
    (mixB x s kw).toNat =
      ((((x.toNat * 2 ^ 4) % 2 ^ 64) ^^^ (x.toNat / 2 ^ 5)) + (x.toNat ^^^ s.toNat) + kw.toNat) % 2 ^ 64 := by
  rw [mixB, BitVec.toNat_add, BitVec.toNat_add, BitVec.toNat_xor, BitVec.toNat_xor, shl64_toNat, shr64_toNat,
    Config.shlB, Config.shrB, Nat.mod_add_mod]

/-- Settles O12: the formula by the numbers of the shifts, the corner cases by evaluation. -/
theorem mixingFunctionB : Obligations.MixingFunctionB :=
  ⟨mixB_toNat, by decide, by decide, by decide, by decide, by decide⟩

/-- R123: each half-round takes off the term the forward half-round added, computed from the same half, sum and key
word. -/
theorem invB_fwdB (k : Key) (r : Rnd) : invB k (fwdB k r) = r := by
  simp only [invB, fwdB, sub64, add64, BitVec.add_sub_cancel]

theorem fwdB_invB (k : Key) (r : Rnd) : fwdB k (invB k r) = r := by
  simp only [invB, fwdB, sub64, add64, BitVec.sub_add_cancel]

/-- Settles O14: the formulas are the definitions, the inverses the two cancellations. -/
theorem doubleRoundsBComputeAndInvert : Obligations.DoubleRoundsBComputeAndInvert := fun k r =>
  ⟨rfl, rfl, invB_fwdB k r, fwdB_invB k r⟩

/-! ### The key word of the `V0` half-round (R121) -/

/-- R121: a sum that is a multiple of 8 selects `K[0]`. -/
theorem keyV0_of_toNat_mod_eight {sum : Word} (h : sum.toNat % 8 = 0) (k : Key) : keyV0 k sum = k.k0 := by
  have hsel : slice2 sum Config.selV0 = 0#2 := by
    rw [slice2_eq_ofNat, show sum.toNat / 2 ^ Config.selV0 % 4 = 0 by rw [Config.selV0]; omega]
  rw [keyV0, hsel]
  rfl

theorem sub_deltaB_toNat_mod_eight {sum : Word} (h : sum.toNat % 8 = 0) :
    (sub64 sum Config.deltaB).toNat % 8 = 0 := by
  have hd := deltaB_toNat_mod_eight
  bv_omega

/-- Settles O20: the invariant keeps `SUM` a multiple of 8, and so is `SUM - DELTA_B`. -/
theorem variantBFirstHalfUsesKeyZero : Obligations.VariantBFirstHalfUsesKeyZero := by
  intro c h hb hv
  obtain ⟨_, hsum, _, _⟩ := h.runningB hb hv
  exact ⟨hsum, keyV0_of_toNat_mod_eight hsum c.key,
    keyV0_of_toNat_mod_eight (sub_deltaB_toNat_mod_eight hsum) c.key⟩

/-! ### The magnitude and the effective count (R9, R129) -/

theorem magnitude_eq_abs (r : Word) : magnitude r = r.abs := by
  rw [magnitude, neg64_eq_neg, BitVec.abs_eq]

/-- R9, R129: the magnitude is the absolute value of the signed reading, for `-2^63` too. -/
theorem magnitude_toNat (r : Word) : (magnitude r).toNat = (sint64 r).natAbs := by
  have hlt := r.isLt
  rw [magnitude_eq_abs, BitVec.toNat_abs, sint64]
  split <;> omega

/-- R130: negation flips the sign of every count but 0 and `-2^63`, which are their own negations. -/
theorem msb_neg64 {r : Word} (h0 : r ≠ 0#64) (hmin : r ≠ 0x8000000000000000#64) : (neg64 r).msb = !r.msb := by
  rw [neg64_eq_neg]
  exact BitVec.msb_neg_of_ne_intMin_of_ne_zero hmin h0

theorem magnitude_neg64 (r : Word) : magnitude (neg64 r) = magnitude r := by
  by_cases h0 : r = 0#64
  · rw [h0]; rfl
  by_cases hmin : r = 0x8000000000000000#64
  · rw [hmin]; rfl
  rw [magnitude, magnitude, msb_neg64 h0 hmin, neg64_eq_neg, neg64_eq_neg, BitVec.neg_neg]
  cases r.msb <;> rfl

/-- R130: a count and its negation have the same effective count. -/
theorem effectiveCount_neg64 (r : Word) : effectiveCount (neg64 r) = effectiveCount r := by
  rw [effectiveCount, magnitude_neg64, effectiveCount]

/-- R129: below `PERIOD_B` the effective count is the magnitude itself. -/
theorem effectiveCount_of_natAbs_lt {r : Word} (h : (sint64 r).natAbs < 2 ^ 61) :
    effectiveCount r = (sint64 r).natAbs := by
  rw [effectiveCount, magnitude_toNat]
  exact Nat.mod_eq_of_lt h

/-- Settles O17: `transformB_eq_iterate` with the direction's double-round and start sum written out. -/
theorem effectiveCountOfTransform : Obligations.EffectiveCountOfTransform := by
  refine fun k b r => ⟨?_, effectiveCount_of_natAbs_lt⟩
  rw [transformB_eq_iterate]
  cases r.msb <;> rfl

/-! ### The round trip and the identities (R130, R131) -/

/-- R123: the double-round of one direction undoes that of the other. -/
theorem doubleRoundB_leftInverse (k : Key) (dir : Bool) :
    Function.LeftInverse (doubleRoundB k (!dir)) (doubleRoundB k dir) := by
  cases dir
  case false => exact invB_fwdB k
  case true => exact fwdB_invB k

/-- R130: `n` double-rounds of one direction end where `n` of the other start. -/
theorem doubleRoundB_iterate_startRnd (k : Key) (dir : Bool) (b : Block) {n : Nat} (hn : n < Config.periodB) :
    (doubleRoundB k dir)^[n] (startRnd dir n b) =
      startRnd (!dir) n ((doubleRoundB k dir)^[n] (startRnd dir n b)).block := by
  have hstop : ((doubleRoundB k dir)^[n] (startRnd dir n b)).sum = startLimit dir n :=
    (doubleRoundB_iterate_sum_eq_limit_iff k dir b le_rfl hn).mpr rfl
  have hmeet : startSum (!dir) n = startLimit dir n := by cases dir <;> rfl
  generalize (doubleRoundB k dir)^[n] (startRnd dir n b) = r at hstop ⊢
  rw [startRnd, hmeet, ← hstop]
  rfl

/-- R130: a count of the opposite sign and the same effective count undoes a transform. -/
theorem transformB_transformB (k : Key) (b : Block) {r r' : Word} (hsign : r'.msb = !r.msb)
    (hcount : effectiveCount r' = effectiveCount r) : transformB k (transformB k b r) r' = b := by
  rw [transformB_eq_iterate k _ r', hsign, hcount, transformB_eq_iterate k b r,
    ← doubleRoundB_iterate_startRnd k r.msb b (effectiveCount_lt r), (doubleRoundB_leftInverse k r.msb).iterate]
  rfl

/-- R129, R131: a transform of no double-rounds leaves the block. -/
theorem transformB_of_effectiveCount_zero (k : Key) (b : Block) {r : Word} (h : effectiveCount r = 0) :
    transformB k b r = b := by
  rw [transformB_eq_iterate, h]
  rfl

theorem transformB_zero (k : Key) (b : Block) : transformB k b 0#64 = b := if_pos rfl

theorem transformB_neg64 (k : Key) (b : Block) {r : Word} (hmin : r ≠ 0x8000000000000000#64) :
    transformB k (transformB k b r) (neg64 r) = b := by
  by_cases h0 : r = 0#64
  · rw [h0, transformB_zero]
    exact transformB_zero k b
  · exact transformB_transformB k b (msb_neg64 h0 hmin) (effectiveCount_neg64 r)

/-- Settles O16: the negated count has the opposite sign and the same effective count; that of `-2^63` is 0. -/
theorem variantBRoundTrip : Obligations.VariantBRoundTrip := fun k b =>
  ⟨fun _ hmin => transformB_neg64 k b hmin, effectiveCount_neg64, transformB_of_effectiveCount_zero k b (by decide),
    transformB_neg64 k b (by decide)⟩

/-! ### The commands (R124 to R128) -/

/-- R154: on an idle core a command does what its word's dispatch does. -/
theorem exec_command_idle {w : Word} {i : Instr} (h : decodeCmd w = some i) {s : State} (hb : s.core.busy = false) :
    exec i s = .next (s.withCore (dispatchCommand w s.core)) := by
  rw [← exec_wrCmd_of_decodeCmd h]
  show execWrCmd w s = _
  rw [execWrCmd, presentCommand_idle (dispatchCommand w) hb]

/-- Settles O23: an idle core takes each command's start values, and presenting the word is the command. -/
theorem variantBWrappersAccepted : Obligations.VariantBWrappersAccepted := by
  intro s hb enc dec
  have henc : exec .encB s = .next enc := by
    rw [exec_command_idle (w := 3#64) rfl hb, dispatchCommand_encB]
    rfl
  have hdec : exec .decB s = .next dec := by
    rw [exec_command_idle (w := 4#64) rfl hb, dispatchCommand_decB]
    rfl
  exact ⟨henc, (exec_wrCmd_of_decodeCmd rfl s).trans henc, hdec, (exec_wrCmd_of_decodeCmd rfl s).trans hdec⟩

theorem ofInt_deltaB_mul (n : Int) :
    BitVec.ofInt 64 (Config.deltaB.toNat * n) = Config.deltaB * BitVec.ofInt 64 n := by
  rw [BitVec.ofInt_mul, BitVec.ofInt_natCast, BitVec.ofNat_toNat, BitVec.setWidth_eq]

/-- R124: the start value of `SUM`, by the signed count. -/
theorem startXfrmB_sum_eq (r : Word) :
    (if r.msb then Config.deltaB * neg64 r else 0#64) =
      if sint64 r < 0 then BitVec.ofInt 64 (Config.deltaB.toNat * -(sint64 r)) else 0#64 := by
  simp only [ofInt_deltaB_mul, ← neg64_eq_ofInt, sint64_neg_iff]

/-- R124: the start value of `LIMIT`, by the signed count; `DELTA_B * 0` is the 0 of the zero count. -/
theorem startXfrmB_limit_eq (r : Word) :
    (if r.msb then 0#64 else Config.deltaB * r) =
      if 0 < sint64 r then BitVec.ofInt 64 (Config.deltaB.toNat * sint64 r) else 0#64 := by
  rw [ofInt_deltaB_mul, sint64_eq_toInt, BitVec.ofInt_toInt, ← sint64_eq_toInt]
  by_cases h0 : r = 0#64
  · subst h0; rfl
  · cases hm : r.msb <;> simp [sint64_pos_iff, hm, h0]

/-- R124: `XFRM_B`'s start values, by the signed count. -/
theorem startXfrmB_eq_by_sign (c : CoreState) :
    startXfrmB c =
      accept 5#4 (decide (sint64 c.rounds < 0))
        (if sint64 c.rounds < 0 then BitVec.ofInt 64 (Config.deltaB.toNat * -(sint64 c.rounds)) else 0#64)
        (if 0 < sint64 c.rounds then BitVec.ofInt 64 (Config.deltaB.toNat * sint64 c.rounds) else 0#64) 0#7 c := by
  have hdir : decide (sint64 c.rounds < 0) = c.rounds.msb := by simp only [sint64_neg_iff, Bool.decide_eq_true]
  rw [startXfrmB_eq, startXfrmB_sum_eq, startXfrmB_limit_eq, hdir]

/-- R124: `XFRM_B` on an idle core. -/
theorem exec_xfrmB_idle {s : State} (hb : s.core.busy = false) :
    exec .xfrmB s = .next (s.withCore (startXfrmB s.core)) := by
  rw [exec_command_idle (w := 5#64) rfl hb, dispatchCommand_xfrmB]

/-- Settles O24: an idle core takes the start values, which `startXfrmB_eq_by_sign` gives by the signed count. -/
theorem transformAcceptedBySign : Obligations.TransformAcceptedBySign := by
  intro s hb n t
  have hxfrm : exec .xfrmB s = .next t := by
    rw [exec_xfrmB_idle hb, startXfrmB_eq_by_sign]
    rfl
  exact ⟨hxfrm, (exec_wrCmd_of_decodeCmd rfl s).trans hxfrm⟩

/-! ### The engine on a Variant B command (R127, R128, R131) -/

theorem isVariantA_eq_false_of_isVariantB {o : BitVec 4} (h : isVariantB o = true) : isVariantA o = false := by
  revert o; decide

theorem isVariantB_of_opr {o : BitVec 4} (h : o = 3#4 ∨ o = 4#4 ∨ o = 5#4) : isVariantB o = true := by
  rcases h with rfl | rfl | rfl <;> rfl

/-- Settles O43: the completion step at `SUM = LIMIT`, a double-round otherwise. -/
theorem engineStepVariantB : Obligations.EngineStepVariantB := by
  intro s hb ho
  have hv := isVariantB_of_opr ho
  have ha := isVariantA_eq_false_of_isVariantB hv
  exact ⟨fun hstop => engineTurn_ok (engineStep_completeB s.core hb ha hv hstop),
    fun hgo => engineTurn_ok (engineStep_roundB s.core hb ha hv hgo)⟩

/-- R124, R131: with the count 0 `XFRM_B` starts at its limit. -/
theorem startXfrmB_of_rounds_zero {c : CoreState} (h : c.rounds = 0#64) :
    startXfrmB c = accept 5#4 false 0#64 0#64 0#7 c := if_pos h

/-- Settles O55: the accepted core has `SUM = LIMIT`, so its engine step is the completion step. -/
theorem zeroCountIsTheIdentity : Obligations.ZeroCountIsTheIdentity := by
  refine ⟨transformB_zero, fun s hb hr => ?_⟩
  have hxfrm : exec .xfrmB s = .next (s.withCore (accept 5#4 false 0#64 0#64 0#7 s.core)) := by
    rw [exec_xfrmB_idle hb, startXfrmB_of_rounds_zero hr]
  have hcomplete : engineStep (accept 5#4 false 0#64 0#64 0#7 s.core) =
      .ok (complete (accept 5#4 false 0#64 0#64 0#7 s.core)) := engineStep_completeB _ rfl rfl rfl rfl
  exact ⟨_, _, hxfrm, (exec_wrCmd_of_decodeCmd rfl s).trans hxfrm, rfl, rfl, rfl, rfl, rfl, rfl,
    engineTurn_ok hcomplete, rfl⟩

/-- R125, R129: `ENC_B`'s count. -/
theorem effectiveCount_encB : effectiveCount 64#64 = 64 := by decide

/-- R126, R129: `DEC_B`'s count. -/
theorem effectiveCount_decB : effectiveCount (BitVec.ofInt 64 (-64)) = 64 := by decide

/-- Settles O52: each command's word by the run of a cipher command, its count's double-rounds and the completion. -/
theorem variantBCommandResult : Obligations.VariantBCommandResult := by
  intro s w es rest hinv hb hw hes r hturns
  have hcipher : IsCipherCommand w := by rcases hw with rfl | rfl | rfl <;> decide
  have hrounds : commandRounds w s.core = effectiveCount r := by
    rcases hw with rfl | rfl | rfl
    · exact (commandRounds_fixed (by decide : 3#64 ≠ 5#64) s.core).trans effectiveCount_encB.symm
    · exact (commandRounds_fixed (by decide : 4#64 ≠ 5#64) s.core).trans effectiveCount_decB.symm
    · exact commandRounds_xfrmB s.core
  have hresult : commandResult w s.core = transformB s.core.key s.core.block r := by
    rcases hw with rfl | rfl | rfl
    · exact commandResult_encB s.core
    · exact commandResult_decB s.core
    · exact commandResult_xfrmB s.core
  rw [← hresult, ← completedCore_of_idle w hinv hb]
  exact run_command_reads hcipher hb hes (by omega)

end Sys2Proof.Laws
end

section
/-! SUPPORT. What a host transaction does, by the kind of its row (R52, R53, R58, R151 to R162): a read returns the register
map's word, a reserved write does nothing, an operand write and a command word do by `BUSY` one of two things. -/

namespace Sys2Proof.Machine

/-! ### The busy test of operand writes and command words (R151 to R154, R173) -/

theorem storeData_idle (store : CoreState → CoreState) {c : CoreState} (hb : c.busy = false) :
    storeData store c = store c := if_neg (ne_true_of_eq_false hb)

theorem storeData_busy (store : CoreState → CoreState) {c : CoreState} (hb : c.busy = true) :
    storeData store c = recordErr errDataWhileBusy c := if_pos hb

theorem presentCommand_busy (start : CoreState → CoreState) {c : CoreState} (hb : c.busy = true) :
    presentCommand start c = recordErr errCmdWhileBusy c := if_pos hb

/-- R151 to R153: a row that stores an operand, on an idle core. -/
theorem exec_store_idle {i : Instr} {s : State} {store : CoreState → CoreState} (hb : s.core.busy = false)
    (h : exec i s = .next (s.withCore (storeData store s.core))) : exec i s = .next (s.withCore (store s.core)) := by
  rw [h, storeData_idle store hb]

/-- R151 to R153, R173: a row that stores an operand, on a busy core. -/
theorem exec_store_busy {i : Instr} {s : State} {store : CoreState → CoreState} (hb : s.core.busy = true)
    (h : exec i s = .next (s.withCore (storeData store s.core))) :
    exec i s = .next (s.withCore (recordErr errDataWhileBusy s.core)) := by
  rw [h, storeData_busy store hb]

/-- R154, R173: any word written to `CMD` while busy. -/
theorem exec_wrCmd_busy (w : Word) {s : State} (hb : s.core.busy = true) :
    exec (.wrCmd w) s = .next (s.withCore (recordErr errCmdWhileBusy s.core)) := by
  show execWrCmd w s = _
  rw [execWrCmd, presentCommand_busy _ hb]

/-- R154: any word written to `CMD` while idle. -/
theorem exec_wrCmd_idle (w : Word) {s : State} (hb : s.core.busy = false) :
    exec (.wrCmd w) s = .next (s.withCore (dispatchCommand w s.core)) := by
  show execWrCmd w s = _
  rw [execWrCmd, presentCommand_idle _ hb]

/-! ### The register map (R53, R156 to R162) -/

/-- R53, R58: every read row returns what the register map holds at its index and changes nothing. -/
theorem exec_decodeRead (idx : BitVec 4) (s : State) :
    exec (decodeRead idx) s = .next (s.returnWord (regRead s.core idx)) := by
  obtain ⟨n, rfl⟩ : ∃ n : Fin 16, idx = BitVec.ofFin n := ⟨idx.toFin, rfl⟩
  fin_cases n <;> rfl

theorem reserved_cases {idx : BitVec 4} (h : 9#4 ≤ idx) :
    idx = 9#4 ∨ idx = 10#4 ∨ idx = 11#4 ∨ idx = 12#4 ∨ idx = 13#4 ∨ idx = 14#4 ∨ idx = 15#4 := by
  revert idx; decide

/-- R162: the register map reads 0 at a reserved index. -/
theorem regRead_reserved {idx : BitVec 4} (h : 9#4 ≤ idx) (c : CoreState) : regRead c idx = 0#64 := by
  rcases reserved_cases h with rfl | rfl | rfl | rfl | rfl | rfl | rfl <;> rfl

/-- R162: a read row of a reserved index. -/
theorem exec_decodeRead_reserved {idx : BitVec 4} (h : 9#4 ≤ idx) (s : State) :
    exec (decodeRead idx) s = .next (s.returnWord 0#64) := by
  rw [exec_decodeRead, regRead_reserved h]

/-- R156: a write row of a reserved index. -/
theorem exec_decodeWrite_reserved {idx : BitVec 4} (h : 9#4 ≤ idx) (w : Word) (s : State) :
    exec (decodeWrite idx w) s = .next s := by
  rcases reserved_cases h with rfl | rfl | rfl | rfl | rfl | rfl | rfl <;> rfl

theorem commandWord_toNat (c : CoreState) : (commandWord c).toNat = c.opr.toNat :=
  BitVec.toNat_setWidth_of_le (by decide)

/-- R32: `STATUS` as a number. -/
theorem statusWord_toNat (c : CoreState) :
    (statusWord c).toNat = c.busy.toNat + 2 * c.done.toNat + 4 * c.err.toNat := by
  unfold statusWord
  generalize c.err = e
  cases c.busy <;> cases c.done <;> revert e <;> decide

end Sys2Proof.Machine
end

section
/-! SUPPORT. A running command under any host traffic (R63, R164, R165, R174, R195): the host reaches `ERR` alone, and the
engine neither reads nor writes `ERR`. -/

namespace Sys2Proof.Machine

/-! ### The engine and `ERR` (R174) -/

/-- The core with another `ERR`. -/
def CoreState.withErr (c : CoreState) (e : BitVec 2) : CoreState := { c with err := e }

/-- R163, R174: the engine takes the same step whatever `ERR` is, and leaves `ERR`. -/
theorem engineStep_withErr {c c' : CoreState} (h : engineStep c = .ok c') (e : BitVec 2) :
    engineStep (c.withErr e) = .ok (c'.withErr e) := by
  rcases engineStep_ok_cases h with
    ⟨hb, rfl⟩ | ⟨hb, ⟨ha, h0⟩ | ⟨hv, hstop⟩, rfl⟩ | ⟨hb, ha, h0, rfl⟩ | ⟨hb, hv, hgo, rfl⟩
  · exact engineStep_idle _ hb
  · exact engineStep_completeA (c.withErr e) hb ha h0
  · exact engineStep_completeB (c.withErr e) hb (Laws.isVariantA_eq_false_of_isVariantB hv) hv hstop
  · exact engineStep_roundA (c.withErr e) hb ha h0
  · exact engineStep_roundB (c.withErr e) hb (Laws.isVariantA_eq_false_of_isVariantB hv) hv hgo

theorem EngineRuns.withErr {c d : CoreState} {n : Nat} (h : EngineRuns c n d) (e : BitVec 2) :
    EngineRuns (c.withErr e) n (d.withErr e) := by
  induction h with
  | idle hb => exact .idle hb
  | step hb hx _ ih => exact .step hb (engineStep_withErr hx e) ih

/-- R163: an engine step that does not complete the command leaves `DONE`. -/
theorem engineStep_done {c c' : CoreState} (h : engineStep c = .ok c') (hb : c'.busy = true) : c'.done = c.done := by
  rcases engineStep_ok_cases h with ⟨_, rfl⟩ | ⟨_, _, rfl⟩ | ⟨_, _, _, rfl⟩ | ⟨_, _, _, rfl⟩
  · rfl
  · cases hb
  · exact roundA_done c
  · exact roundB_done c

theorem EngineRuns.busy {c d : CoreState} {n : Nat} (h : EngineRuns c (n + 1) d) : c.busy = true := by
  cases h with
  | step hb _ _ => exact hb

/-! ### The host and a running command (R164, R173, R195) -/

theorem recordErr_eq_withErr (code : BitVec 2) (c : CoreState) :
    recordErr code c = c.withErr (if c.err = 0#2 then code else c.err) := by
  unfold recordErr
  split <;> rfl

/-- R155: an acknowledgement while `DONE` is 0 changes `ERR` alone. -/
theorem acknowledge_eq_withErr {c : CoreState} (hd : c.done = false) : acknowledge c = c.withErr 0#2 := by
  rw [acknowledge, ← hd]
  rfl

/-- R164, R195: no transaction changes more of a running command than `ERR`: the effects that store or accept need an idle
core, and `DONE` is 0 already. -/
theorem coreEffect_running {i : Instr} {c c' : CoreState} (hb : c.busy = true) (hd : c.done = false)
    (h : CoreEffect i c c') : ∃ e, c' = c.withErr e := by
  cases h with
  | same => exact ⟨c.err, rfl⟩
  | error code _ => exact ⟨_, recordErr_eq_withErr code c⟩
  | acknowledged _ _ => exact ⟨_, acknowledge_eq_withErr hd⟩
  | storedKey _ hi _ => exact absurd (hb.symm.trans hi) nofun
  | storedBlock _ hi => exact absurd (hb.symm.trans hi) nofun
  | storedRounds _ hi => exact absurd (hb.symm.trans hi) nofun
  | accepted _ hi _ => exact absurd (hb.symm.trans hi) nofun

/-- The core runs a command with `n` round steps before its completion step, which leaves `d` but for `ERR`. -/
structure Running (c : CoreState) (n : Nat) (d : CoreState) : Prop where
  notDone : c.done = false
  runs : ∃ e, EngineRuns c (n + 1) (d.withErr e)

theorem Running.busy {c d : CoreState} {n : Nat} (h : Running c n d) : c.busy = true :=
  have ⟨_, hruns⟩ := h.runs
  hruns.busy

/-- R106, R128: an accepted cipher command runs for its double-rounds. -/
theorem running_dispatchCommand {w : Word} (hw : IsCipherCommand w) (c : CoreState) :
    Running (dispatchCommand w c) (commandRounds w c) (completedCore w c) := by
  have hruns : EngineRuns _ _ ((completedCore w c).withErr c.err) := engineRuns_dispatchCommand hw c
  have hinv : (dispatchCommand w c).Inv := Laws.started_inv (started_dispatchCommand hw c)
  exact ⟨hinv.flags hruns.busy, c.err, hruns⟩

/-- R164: a transaction leaves the command running as it was. -/
theorem Running.host {i : Instr} {c c' d : CoreState} {n : Nat} (h : Running c n d) (hx : CoreEffect i c c') :
    Running c' n d := by
  obtain ⟨e, rfl⟩ := coreEffect_running h.busy h.notDone hx
  obtain ⟨_, hruns⟩ := h.runs
  exact ⟨h.notDone, e, hruns.withErr e⟩

/-- R163: an engine step before the last. -/
theorem Running.round {c d : CoreState} {n : Nat} (h : Running c (n + 1) d) :
    ∃ c', engineStep c = .ok c' ∧ Running c' n d := by
  obtain ⟨hd, e, hruns⟩ := h
  cases hruns with
  | step _ hx hrest => exact ⟨_, hx, (engineStep_done hx hrest.busy).trans hd, e, hrest⟩

/-- R163: the completion step. -/
theorem Running.completion {c d : CoreState} (h : Running c 0 d) : ∃ e, engineStep c = .ok (d.withErr e) := by
  obtain ⟨_, e, hruns⟩ := h
  cases hruns with
  | step _ hx hrest =>
    cases hrest
    exact ⟨e, hx⟩

theorem engineTurns_engine (es : List Event) : engineTurns (.engine :: es) = engineTurns es + 1 :=
  List.countP_cons_of_pos rfl

theorem engineTurns_host (bus : BitVec 69) (es : List Event) : engineTurns (.host bus :: es) = engineTurns es :=
  List.countP_cons_of_neg nofun

/-- R62, R164: over any stretch with no more engine turns than the command's round steps left, it keeps running. -/
theorem run_of_running {s : State} {es rest : List Event} {n : Nat} {d : CoreState} (h : Running s.core n d)
    (hs : s.script = es ++ rest) (hes : HostAndEngine es) (hn : engineTurns es ≤ n) :
    ∃ t, run es.length s = .next t ∧ t.script = rest ∧ Running t.core (n - engineTurns es) d := by
  induction es generalizing s n with
  | nil => exact ⟨s, rfl, hs, h⟩
  | cons e es ih =>
    obtain ⟨he, htail⟩ := List.forall_mem_cons.mp hes
    cases e with
    | host bus =>
      rw [engineTurns_host] at hn ⊢
      obtain ⟨u, hu⟩ := hostTurn_total bus { s with script := es ++ rest }
      have heffect : CoreEffect (decodeBus bus) s.core u.core :=
        exec_coreEffect (s := { s with script := es ++ rest }) hu
      obtain ⟨t, hrun, ht⟩ := ih (h.host heffect) (exec_keeps_script hu) htail hn
      exact ⟨t, (run_succ _ s u ((step_cons s _ _ hs).trans hu)).trans hrun, ht⟩
    | engine =>
      rw [engineTurns_engine] at hn ⊢
      obtain ⟨m, rfl⟩ : ∃ m, n = m + 1 := ⟨n - 1, by omega⟩
      obtain ⟨c, hx, hc⟩ := h.round
      obtain ⟨t, hrun, ht⟩ := ih (s := { s with script := es ++ rest, core := c }) hc rfl htail (by omega)
      rw [Nat.add_sub_add_right]
      exact ⟨t, (run_succ _ s _ (step_engine s _ c hs hx)).trans hrun, ht⟩
    | _ => simp [Event.isEngine, Event.isHost] at he

/-- R164, R202: a cipher command's word on an idle core, then any traffic with no more engine turns than its round steps. -/
theorem run_command_traffic {s : State} {w : Word} {es rest : List Event} (hw : IsCipherCommand w)
    (hb : s.core.busy = false) (hes : HostAndEngine es) (hturns : engineTurns es ≤ commandRounds w s.core) :
    ∃ t, run (es.length + 1) { s with script := .host (scriptWr 7#4 w) :: (es ++ rest) } = .next t ∧
      t.script = rest ∧ Running t.core (commandRounds w s.core - engineTurns es) (completedCore w s.core) := by
  obtain ⟨t, hrun, ht⟩ := run_of_running
    (s := { s with script := es ++ rest, core := dispatchCommand w s.core }) (running_dispatchCommand hw s.core)
    rfl hes hturns
  exact ⟨t, (run_succ _ _ _ (step_command s w (es ++ rest) hb)).trans hrun, ht⟩

/-! ### A number of engine turns, whether the command has completed or not (R63, R165) -/

/-- `n` turns of the engine, those of an idle core among them, take `c` to `c'` (R163; log entry 4). -/
inductive EngineTakes : CoreState → Nat → CoreState → Prop where
  | none (c : CoreState) : EngineTakes c 0 c
  | turn {c m c' : CoreState} {n : Nat} (hx : engineStep c = .ok m) (h : EngineTakes m n c') : EngineTakes c (n + 1) c'

theorem EngineTakes.withErr {c c' : CoreState} {n : Nat} (h : EngineTakes c n c') (e : BitVec 2) :
    EngineTakes (c.withErr e) n (c'.withErr e) := by
  induction h with
  | none c => exact .none _
  | turn hx _ ih => exact .turn (engineStep_withErr hx e) ih

/-- R163: a command that runs to its end has a core after every number of turns. -/
theorem EngineRuns.exists_takes {c d : CoreState} {m : Nat} (h : EngineRuns c m d) (n : Nat) :
    ∃ c', EngineTakes c n c' := by
  induction n generalizing c m with
  | zero => exact ⟨c, .none c⟩
  | succ n ih =>
    cases h with
    | idle hb => exact (ih (.idle hb)).imp fun _ => .turn (engineStep_idle _ hb)
    | step _ hx h => exact (ih h).imp fun _ => .turn hx

/-- R63: with reads between them the engine's turns do what they do alone. -/
theorem run_of_engineTakes {s : State} {es rest : List Event} {c : CoreState}
    (h : EngineTakes s.core (engineTurns es) c) (hs : s.script = es ++ rest) (hes : ReadsAndEngine es) :
    ∃ t, run es.length s = .next t ∧ t.core = c := by
  induction es generalizing s with
  | nil =>
    cases h
    exact ⟨s, rfl, rfl⟩
  | cons e es ih =>
    obtain ⟨he, htail⟩ := List.forall_mem_cons.mp hes
    cases e with
    | host bus =>
      rw [engineTurns_host] at h
      have hread : (decodeBus bus).isRead = true := he.resolve_left nofun
      obtain ⟨word, hx⟩ := exec_of_isRead hread { s with script := es ++ rest }
      obtain ⟨t, hrun, ht⟩ := ih (s := ({ s with script := es ++ rest } : State).returnWord word) h rfl htail
      exact ⟨t, (run_succ _ s _ ((step_cons s _ _ hs).trans hx)).trans hrun, ht⟩
    | engine =>
      rw [engineTurns_engine] at h
      cases h with
      | @turn _ m _ _ hx h =>
        obtain ⟨t, hrun, ht⟩ := ih (s := { s with script := es ++ rest, core := m }) h rfl htail
        exact ⟨t, (run_succ _ s _ (step_engine s _ m hs hx)).trans hrun, ht⟩
    | _ => simp [Event.isEngine, Event.isRead] at he

/-- R165: an accept overwrites everything but `KEY`, `BLOCK`, `ROUNDS` and `ERR`. -/
theorem accept_of_same_operands {c c' : CoreState} (hk : c.key = c'.key) (hb : c.block = c'.block)
    (hr : c.rounds = c'.rounds) (o : BitVec 4) (dir : Bool) (sum limit : Word) (cnt : BitVec 7) :
    accept o dir sum limit cnt c = (accept o dir sum limit cnt c').withErr c.err := by
  rw [accept, hk, hb, hr]
  rfl

/-- R104, R105, R124 to R126, R165: the start of a cipher command depends on the operands alone. -/
theorem dispatchCommand_of_same_operands {w : Word} (hw : IsCipherCommand w) {c c' : CoreState} (hk : c.key = c'.key)
    (hb : c.block = c'.block) (hr : c.rounds = c'.rounds) :
    dispatchCommand w c = (dispatchCommand w c').withErr c.err := by
  have haccept := accept_of_same_operands hk hb hr
  rcases isCipherCommand_cases hw with rfl | rfl | rfl | rfl | rfl
  · rw [dispatchCommand_encA, dispatchCommand_encA]
    exact haccept ..
  · rw [dispatchCommand_decA, dispatchCommand_decA]
    exact haccept ..
  · rw [dispatchCommand_encB, dispatchCommand_encB]
    exact haccept ..
  · rw [dispatchCommand_decB, dispatchCommand_decB]
    exact haccept ..
  · rw [dispatchCommand_xfrmB, dispatchCommand_xfrmB, startXfrmB_eq, startXfrmB_eq, hr]
    exact haccept ..

end Sys2Proof.Machine
end

section
/-! PROOFS. The command dispatch and the host's access to the registers (42_control_and_access.md): `NOP` (R150), the writes
(R151 to R156), the reads (R157 to R162), and a cipher command under traffic and after any history (R164, R165). -/

namespace Sys2Proof.Laws

open Sys2Proof.Machine

/-! ### Command words (R150, R154) -/

/-- Settles O25: the busy test, the illegal words, and the legal ones (`exec_wrCmd_of_decodeCmd`). -/
theorem commandWordDispatch : Obligations.CommandWordDispatch := by
  intro s w
  refine ⟨exec_wrCmd_busy w, fun hb hw => ?illegal, fun _ i hi => exec_wrCmd_of_decodeCmd hi s⟩
  case illegal =>
    rw [exec_wrCmd_idle w hb, dispatchCommand_illegal w s.core hw]
    rfl

/-- Settles O21: the word 0 written to `CMD`, which is `NOP`, idle and busy. -/
theorem nopDoesNothingWhileIdle : Obligations.NopDoesNothingWhileIdle := by
  refine ⟨rfl, decodeBus_write 7#4 0#64, fun s => ?_⟩
  have hnop : exec (.wrCmd 0#64) s = exec .nop s := exec_wrCmd_of_decodeCmd rfl s
  refine ⟨fun hb => ?idle, fun hb => ?busy⟩
  case idle =>
    have hx : exec (.wrCmd 0#64) s = .next s := by
      rw [exec_wrCmd_idle 0#64 hb, dispatchCommand_nop]
      rfl
    exact ⟨hnop.symm.trans hx, hx⟩
  case busy => exact ⟨hnop.symm.trans (exec_wrCmd_busy 0#64 hb), exec_wrCmd_busy 0#64 hb⟩

/-! ### Write transactions (R151 to R153, R155, R156) -/

/-- Settles O27: the four key words, idle and busy. -/
theorem writeKeyWord : Obligations.WriteKeyWord := by
  intro s w
  refine ⟨⟨decodeBus_write 0#4 w, decodeBus_write 1#4 w, decodeBus_write 2#4 w, decodeBus_write 3#4 w⟩,
    fun hb => ?idle, fun hb => ?busy⟩
  case idle =>
    exact ⟨exec_store_idle (i := .wrKey0 w) hb rfl, exec_store_idle (i := .wrKey1 w) hb rfl,
      exec_store_idle (i := .wrKey2 w) hb rfl, exec_store_idle (i := .wrKey3 w) hb rfl⟩
  case busy =>
    simp only [List.forall_mem_cons]
    exact ⟨exec_store_busy hb rfl, exec_store_busy hb rfl, exec_store_busy hb rfl, exec_store_busy hb rfl, nofun⟩

/-- Settles O28: the two halves, idle and busy. -/
theorem writeBlockHalf : Obligations.WriteBlockHalf := by
  intro s w
  refine ⟨⟨decodeBus_write 4#4 w, decodeBus_write 5#4 w⟩, fun hb => ?idle, fun hb => ?busy⟩
  case idle => exact ⟨exec_store_idle (i := .wrBlk0 w) hb rfl, exec_store_idle (i := .wrBlk1 w) hb rfl⟩
  case busy =>
    simp only [List.forall_mem_cons]
    exact ⟨exec_store_busy hb rfl, exec_store_busy hb rfl, nofun⟩

/-- Settles O29: idle and busy. -/
theorem writeRounds : Obligations.WriteRounds := fun _ w =>
  ⟨fun hb => exec_store_idle (i := .wrRounds w) hb rfl, fun hb => exec_store_busy hb rfl⟩

/-- Settles O30: index 8 decodes to the acknowledgement, which tests neither its data nor `BUSY`. -/
theorem writeStatusClearsFlags : Obligations.WriteStatusClearsFlags := fun _ w => ⟨decodeBus_write 8#4 w, rfl⟩

/-- Settles O31: the indices 9 to 15. -/
theorem writeReservedHasNoEffect : Obligations.WriteReservedHasNoEffect := by
  intro s w
  have noEffect (idx : BitVec 4) (h : 9#4 ≤ idx) : exec (decodeWrite idx w) s = .next s :=
    exec_decodeWrite_reserved h w s
  exact ⟨⟨decodeBus_write 9#4 w, decodeBus_write 10#4 w, decodeBus_write 11#4 w, decodeBus_write 12#4 w,
      decodeBus_write 13#4 w, decodeBus_write 14#4 w, decodeBus_write 15#4 w⟩,
    noEffect 9#4 (by decide), noEffect 10#4 (by decide), noEffect 11#4 (by decide), noEffect 12#4 (by decide),
    noEffect 13#4 (by decide), noEffect 14#4 (by decide), noEffect 15#4 (by decide)⟩

/-! ### Read transactions (R157 to R162), each the register map's word at its index -/

/-- Settles O32: the indices 0 to 3. -/
theorem readKeyWord : Obligations.ReadKeyWord := fun s =>
  ⟨exec_decodeRead 0#4 s, exec_decodeRead 1#4 s, exec_decodeRead 2#4 s, exec_decodeRead 3#4 s⟩

/-- Settles O33: the indices 4 to 6. -/
theorem readBlockAndRounds : Obligations.ReadBlockAndRounds := fun s =>
  ⟨exec_decodeRead 4#4 s, exec_decodeRead 5#4 s, exec_decodeRead 6#4 s⟩

/-- Settles O34: the indices 7 and 8, their words as numbers. -/
theorem readCommandAndStatus : Obligations.ReadCommandAndStatus := fun s =>
  ⟨commandWord s.core, statusWord s.core, commandWord_toNat s.core, statusWord_toNat s.core,
    exec_decodeRead 7#4 s, exec_decodeRead 8#4 s⟩

/-- Settles O35: the indices 9 to 15. -/
theorem readReservedReturnsZero : Obligations.ReadReservedReturnsZero := by
  intro s t
  have zero (idx : BitVec 4) (h : 9#4 ≤ idx) : exec (decodeRead idx) s = .next t := exec_decodeRead_reserved h s
  exact ⟨zero 9#4 (by decide), zero 10#4 (by decide), zero 11#4 (by decide), zero 12#4 (by decide),
    zero 13#4 (by decide), zero 14#4 (by decide), zero 15#4 (by decide)⟩

/-! ### A cipher command under traffic and after any history (R164, R165) -/

/-- Settles O53: under the traffic the command runs its round steps, and the last turn is its completion. -/
theorem commandUndisturbedByTraffic : Obligations.CommandUndisturbedByTraffic := by
  intro s w es rest hb hw hes hturns
  obtain ⟨u, hrun, hscript, hrunning⟩ := run_command_traffic (rest := .engine :: rest) hw hb hes hturns.le
  rw [hturns, Nat.sub_self] at hrunning
  obtain ⟨e, hx⟩ := hrunning.completion
  have hlast : step u = .next { u with script := rest, core := (completedCore w s.core).withErr e } :=
    step_engine u rest _ hscript hx
  exact ⟨_, (run_add (es.length + 1) 1 _ u hrun).trans ((run_one u).trans hlast), rfl, rfl⟩

/-- Settles O56: the two commands start alike but for `ERR`, and the engine's turns keep them so. -/
theorem resultIndependentOfHistory : Obligations.ResultIndependentOfHistory := by
  intro s₁ s₂ w es₁ es₂ rest₁ rest₂ hb₁ hb₂ hkey hblock hrounds hw hes₁ hes₂ hturns
  obtain ⟨c, htakes₂⟩ := (engineRuns_dispatchCommand hw s₂.core).exists_takes (engineTurns es₂)
  have htakes₁ : EngineTakes (dispatchCommand w s₁.core) (engineTurns es₁) (c.withErr s₁.core.err) := by
    rw [dispatchCommand_of_same_operands hw hkey hblock hrounds, hturns]
    exact htakes₂.withErr s₁.core.err
  obtain ⟨t₁, hrun₁, ht₁⟩ := run_of_engineTakes
    (s := { s₁ with script := es₁ ++ rest₁, core := dispatchCommand w s₁.core }) htakes₁ rfl hes₁
  obtain ⟨t₂, hrun₂, ht₂⟩ := run_of_engineTakes
    (s := { s₂ with script := es₂ ++ rest₂, core := dispatchCommand w s₂.core }) htakes₂ rfl hes₂
  refine ⟨t₁, t₂, (run_succ _ _ _ (step_command s₁ w (es₁ ++ rest₁) hb₁)).trans hrun₁,
    (run_succ _ _ _ (step_command s₂ w (es₂ ++ rest₂) hb₂)).trans hrun₂, ?_⟩
  rw [ht₁, ht₂]
  rfl

end Sys2Proof.Laws
end

section
/-! SUPPORT. No event of a reachable state stops the machine (R58, R62, R163, R170): the engine's fault needs a running
command that `OPR` does not name, which the invariant rules out. -/

namespace Sys2Proof.Machine

/-- R163: under the invariant the engine has its step. -/
theorem engineStep_total {c : CoreState} (h : c.Inv) : ∃ c', engineStep c = .ok c' := by
  rcases engineStep_cases c with ⟨_, hx⟩ | ⟨_, _, hx⟩ | ⟨_, _, _, hx⟩ | ⟨hb, ha, hv, _⟩
  · exact ⟨c, hx⟩
  · exact ⟨stepA c, hx⟩
  · exact ⟨stepB c, hx⟩
  · obtain ⟨hle, hne, _⟩ := h.operation
    rcases Laws.isVariant_of_legal hle (hne hb) with h' | h'
    · exact absurd (ha.symm.trans h') nofun
    · exact absurd (hv.symm.trans h') nofun

theorem engineTurn_total {s : State} (h : s.core.Inv) : ∃ t, engineTurn s = .next t :=
  have ⟨c, hc⟩ := engineStep_total h
  ⟨s.withCore c, engineTurn_ok hc⟩

/-- R67, R190: in a busy cycle the engine steps from the core the transaction left, which meets the invariant too. -/
theorem clockEdge_total (p : Pins) {s : State} (h : s.core.Inv) : ∃ t, clockEdge p s = .next t := by
  rcases clockEdge_cases p s with
    ⟨_, hx⟩ | ⟨_, _, _, u, hu, hx⟩ | ⟨_, _, _, hx⟩ | ⟨_, _, _, hx⟩ | ⟨_, _, _, hx⟩ <;> rw [hx]
  · exact ⟨_, rfl⟩
  · exact engineTurn_total (Laws.coreEffect_inv (exec_coreEffect hu) h)
  · exact hostTurn_total p.bus s
  · exact engineTurn_total h
  · exact ⟨_, rfl⟩

/-- R58, R62: every event completes. -/
theorem runEvent_total (e : Event) {s : State} (h : s.core.Inv) : ∃ t, runEvent e s = .next t := by
  cases e with
  | host bus => exact hostTurn_total bus s
  | engine => exact engineTurn_total h
  | reset => exact ⟨_, rfl⟩
  | clock p => exact clockEdge_total p h
  | wait gaps => rcases waitTurn_cases gaps s with ⟨_, hx⟩ | ⟨_, hx⟩ <;> exact ⟨_, hx⟩
  | waitCycles gaps =>
    rcases waitCycle_cases gaps s with ⟨_, _, _, hx⟩ | ⟨_, hfault, _⟩ | ⟨_, hx⟩
    · exact ⟨_, hx⟩
    · obtain ⟨c, hc⟩ := engineStep_total h
      cases hfault.symm.trans hc
    · exact ⟨_, hx⟩

theorem step_total {s : State} (h : s.core.Inv) : ∃ t, step s = .next t := by
  cases hs : s.script with
  | nil => exact step_nil s hs ▸ engineTurn_total h
  | cons e rest => exact step_cons s e rest hs ▸ runEvent_total e (s := { s with script := rest }) h

/-- A run is safe where a predicate holds that gives a step and that the step keeps. -/
theorem safeRun_of_progress {P : State → Prop} (hstep : ∀ s, P s → ∃ t, step s = .next t ∧ P t) {s : State} (h : P s) :
    SafeRun s := by
  intro n
  induction n generalizing s with
  | zero => exact ⟨s, rfl⟩
  | succ n ih =>
    obtain ⟨u, hu, hP⟩ := hstep s h
    obtain ⟨t, ht⟩ := ih hP
    exact ⟨t, (run_succ n s u hu).trans ht⟩

end Sys2Proof.Machine
end

section
/-! PROOFS. Errors and the busy rules (60_exceptions.md): the error record and its acknowledgement (R171, R172, R201), what
a busy core drops (R173, R174, R195), and the machine that never stops (R170). -/

namespace Sys2Proof.Laws

open Sys2Proof.Machine

/-! ### The machine never stops (R58, R170) -/

/-- Settles O49: the invariant gives a step (`step_total`) and the step keeps it. -/
theorem machineNeverStops : Obligations.MachineNeverStops := fun _ =>
  safeRun_of_progress (P := fun s => s.core.Inv) fun s hs =>
    have ⟨t, ht⟩ := step_total hs
    ⟨t, ht, stepKeepsTheInvariant s t hs ht⟩

/-! ### Who writes `ERR` (R31, R172, R201) -/

/-- Settles O37: the two branches of `record_err`. -/
theorem firstErrorWins : Obligations.FirstErrorWins := fun _ _ => ⟨fun h => if_pos h, fun h => if_neg h⟩

/-- R172: recording over an error leaves it. -/
theorem recordErr_err_of_ne_zero (code : BitVec 2) {c : CoreState} (he : c.err ≠ 0#2) :
    (recordErr code c).err = c.err := by
  rw [recordErr_err, if_neg he]

/-- R163: the engine does not write `ERR`. -/
theorem engineStep_err {c c' : CoreState} (h : engineStep c = .ok c') : c'.err = c.err := by
  rcases engineStep_ok_cases h with ⟨_, rfl⟩ | ⟨_, _, rfl⟩ | ⟨_, _, _, rfl⟩ | ⟨_, _, _, rfl⟩ <;> rfl

/-- R104, R105, R124 to R126: an accept does not write `ERR`. -/
theorem started_err {c c' : CoreState} (h : Started c c') : c'.err = c.err := by
  cases h with
  | encA => exact accept_err ..
  | decA => exact accept_err ..
  | encB => exact accept_err ..
  | decB => exact accept_err ..
  | xfrmB => rw [startXfrmB_eq, accept_err]

/-- R155, R172: an instruction leaves a recorded error or is `WR STATUS`, which makes it 0. -/
theorem coreEffect_err {i : Instr} {c c' : CoreState} (h : CoreEffect i c c') (he : c.err ≠ 0#2) :
    c'.err = c.err ∨ (c'.err = 0#2 ∧ ∃ w, i = .wrStatus w) := by
  cases h with
  | same => exact .inl rfl
  | error code _ => exact .inl (recordErr_err_of_ne_zero code he)
  | acknowledged w hi => exact .inr ⟨acknowledge_err c, w, hi⟩
  | storedKey _ _ _ => exact .inl rfl
  | storedBlock _ _ => exact .inl rfl
  | storedRounds _ _ => exact .inl rfl
  | accepted _ _ hs => exact .inl (started_err hs)

theorem clearsErr_of_isReset {e : Event} (h : e.isReset = true) : e.clearsErr := by
  cases e with
  | reset => exact trivial
  | clock p => exact .inl h
  | _ => cases h

/-- An event whose transaction is `WR STATUS` is one that `Event.clearsErr` names. -/
theorem clearsErr_of_transaction {e : Event} {w : Word} (hi : e.transaction = some (.wrStatus w)) : e.clearsErr := by
  cases e with
  | host bus => exact ⟨w, Option.some.inj hi⟩
  | clock p =>
    obtain ⟨⟨_, hs⟩, hp⟩ := Option.ite_none_right_eq_some.mp hi
    exact .inr ⟨hs, w, Option.some.inj hp⟩
  | _ => cases hi

/-- R172: an event leaves a recorded error or makes it 0, and then it acknowledges or resets. -/
theorem eventEffect_err {e : Event} {c c' : CoreState} (h : EventEffect e c c') (he : c.err ≠ 0#2) :
    c'.err = c.err ∨ (c'.err = 0#2 ∧ e.clearsErr) := by
  have clears {i : Instr} (hi : e.transaction = some i) (hw : ∃ w, i = .wrStatus w) : e.clearsErr := by
    obtain ⟨w, rfl⟩ := hw
    exact clearsErr_of_transaction hi
  cases h with
  | reset hr => exact .inr ⟨rfl, clearsErr_of_isReset hr⟩
  | same => exact .inl rfl
  | host i hi hx => exact (coreEffect_err hx he).imp_right (And.imp_right (clears hi))
  | engine hx => exact .inl (engineStep_err hx)
  | hostThenEngine i hi _ hx hy =>
    rw [engineStep_err hy]
    exact (coreEffect_err hx he).imp_right (And.imp_right (clears hi))

/-- Settles O38: the engine leaves `ERR`, so the step's event made it 0. -/
theorem errorKeptUntilAcknowledged : Obligations.ErrorKeptUntilAcknowledged := by
  intro s t h he
  rcases step_effect h with ⟨_, hx⟩ | ⟨e, rest, hs, hx⟩
  · exact .inl (engineStep_err hx)
  · exact (eventEffect_err hx he).imp_right (And.imp_right fun hclears => ⟨e, rest, hs, hclears⟩)

/-! ### The busy core (R173, R174, R195) -/

/-- R154, R173: any legal command while busy. -/
theorem exec_command_busy {w : Word} {i : Instr} (h : decodeCmd w = some i) {s : State} (hb : s.core.busy = true) :
    exec i s = .next (s.withCore (s.core.withErr (if s.core.err = 0#2 then errCmdWhileBusy else s.core.err))) := by
  rw [← exec_wrCmd_of_decodeCmd h, exec_wrCmd_busy w hb, recordErr_eq_withErr]

/-- Settles O26: the command words 0 to 5. -/
theorem commandsDroppedWhileBusy : Obligations.CommandsDroppedWhileBusy := by
  intro s hb
  simp only [List.forall_mem_cons]
  exact ⟨exec_command_busy (w := 0#64) rfl hb, exec_command_busy (w := 1#64) rfl hb,
    exec_command_busy (w := 2#64) rfl hb, exec_command_busy (w := 3#64) rfl hb,
    exec_command_busy (w := 4#64) rfl hb, exec_command_busy (w := 5#64) rfl hb, nofun⟩

/-- R174, R195: an instruction on a busy core changes `ERR` alone or is `WR STATUS`: the effects that store or accept need
an idle core. -/
theorem coreEffect_busy {i : Instr} {c c' : CoreState} (hb : c.busy = true) (h : CoreEffect i c c') :
    (∃ e, c' = c.withErr e) ∨ (c' = acknowledge c ∧ ∃ w, i = .wrStatus w) := by
  cases h with
  | same => exact .inl ⟨c.err, rfl⟩
  | error code _ => exact .inl ⟨_, recordErr_eq_withErr code c⟩
  | acknowledged w hi => exact .inr ⟨rfl, w, hi⟩
  | storedKey _ hi _ => exact absurd (hb.symm.trans hi) nofun
  | storedBlock _ hi => exact absurd (hb.symm.trans hi) nofun
  | storedRounds _ hi => exact absurd (hb.symm.trans hi) nofun
  | accepted _ hi _ => exact absurd (hb.symm.trans hi) nofun

/-- Settles O39: `ERR` alone changes, or `WR STATUS` clears `DONE` and `ERR`. -/
theorem busyCoreIgnoresTheHost : Obligations.BusyCoreIgnoresTheHost := by
  intro i s t hb h
  rcases coreEffect_busy hb (exec_coreEffect h) with ⟨e, ht⟩ | ⟨ht, w, hi⟩ <;> rw [ht]
  · exact ⟨rfl, fun _ => rfl⟩
  · exact ⟨rfl, fun hne => absurd hi (hne w)⟩

end Sys2Proof.Laws
end

section
/-! PROOFS. Reset and the timing hazards (70_reset_and_hazards.md): what a reset clears (R190, R191), and how long `BUSY`
reads 1 (R194, R202). -/

namespace Sys2Proof.Laws

open Sys2Proof.Machine

/-! ### Reset (R190, R191) -/

/-- R67, R190: a cycle with `rst = 1` resets, whatever the other pins carry. -/
theorem clockEdge_reset {p : Pins} (hr : p.rst = true) (s : State) : clockEdge p s = .next s.resetCore := if_pos hr

/-- R191: after a reset `CMD` and `STATUS` read 0 as the elements behind them do, and so does every other index. -/
theorem regRead_reset (idx : BitVec 4) : regRead CoreState.reset idx = 0#64 := by
  unfold regRead
  split <;> rfl

/-- Settles O46: the two events that reset, the reset value of each element, and the register map over them. -/
theorem resetClearsEveryElement : Obligations.ResetClearsEveryElement := by
  refine ⟨fun s p rest hr => ⟨step_scripted s .reset rest, ?edge⟩, rfl, rfl, rfl, rfl, rfl, rfl, rfl, rfl, rfl, rfl, rfl,
    regRead_reset⟩
  case edge => exact (step_scripted s (.clock p) rest).trans (clockEdge_reset hr { s with script := rest })

/-! ### The length of a command (R194, R202) -/

/-- Settles O54: until its round steps are taken the command is still running (`run_command_traffic`), and a running
command holds `BUSY` at 1 and `DONE` at 0. -/
theorem commandBusyUntilItsStepCount : Obligations.CommandBusyUntilItsStepCount := by
  intro s w es rest hb hw hes hturns
  obtain ⟨t, hrun, _, hrunning⟩ := run_command_traffic (rest := rest) hw hb hes hturns
  have hbusy : t.core.busy = true := hrunning.busy
  have hdone : t.core.done = false := hrunning.notDone
  have hstatus : readsBusy (statusWord t.core) = true := (readsBusy_statusWord t.core).trans hbusy
  exact ⟨t, hrun, hbusy, hdone, hbusy, hdone, hstatus⟩

end Sys2Proof.Laws
end

section
/-! PROOFS. The source's test vectors (95_test_vectors.md section 1): the six ciphertexts by evaluation, the plaintexts by
the round trips of R108 and R130. -/

namespace Sys2Proof.Laws

open Sys2Proof.Machine

/-- R108: a Variant A vector holds the other way round as well. -/
theorem decryptA_of_encryptA_eq {k : Key} {p c : Block} (h : encryptA k p = c) : decryptA k c = p :=
  h ▸ decryptA_encryptA k p

/-- R130: a Variant B vector holds the other way round as well, under the negated count. -/
theorem transformB_neg64_of_eq {k : Key} {p c : Block} {r : Word} (hmin : r ≠ 0x8000000000000000#64)
    (h : transformB k p r = c) : transformB k c (neg64 r) = p :=
  h ▸ transformB_neg64 k p hmin

/-- Settles O18: only the six encryptions S1 to S6 are evaluated; each decryption follows from its encryption. -/
theorem sourceVectors : Obligations.SourceVectors := by
  have hmin : (64#64 : Word) ≠ 0x8000000000000000#64 := by decide
  refine ⟨?s1, ?s2, ?s3,
    decryptA_of_encryptA_eq ?s1, decryptA_of_encryptA_eq ?s2, decryptA_of_encryptA_eq ?s3,
    ?s4, ?s5, ?s6,
    transformB_neg64_of_eq hmin ?s4, transformB_neg64_of_eq hmin ?s5, transformB_neg64_of_eq hmin ?s6⟩
  case s1 | s2 | s3 | s4 | s5 | s6 => decide +kernel

end Sys2Proof.Laws
end
